-- ==== Sys2Proof/Word.lean ====
section
/-! DEFINITION. The word type of the block's port and the list of words a big register is held as. -/

namespace Sys2Proof

/-- The one width of a host access and of a control register (20_memory.md R79): 32 bits, bit 0 least
significant (00_scope.md R9). -/
abbrev Word := BitVec 32

/-- An 8-bit field: ERR_CODE, ERR_OP, CUR_OP, the OPCODE field of a command value. -/
abbrev Byte := BitVec 8

/-- A word index of the port, `widx[9:0]` (20_memory.md R73): the byte address divided by 4. -/
abbrev WordIndex := BitVec 10

/-- A big register as its words, word 0 (least significant) first (00_scope.md R9, 10_state.md R21). -/
abbrev Limbs := List Word

end Sys2Proof
end

