-- ==== Sys2Proof/Config.lean ====
section
/-! DEFINITION. What is fixed for an instance of the block, and the values the spec leaves undefined. -/

namespace Sys2Proof

/-- NW of the reference instance (00_scope.md R6): W = 2048. -/
def Config.referenceNW : Nat := 64

/-- The upper bound of NW (00_scope.md R6), the size of an operand window (20_memory.md R72). -/
def Config.maxNW : Nat := 128

/-- The reset value of FT_K: the document's trial count k = 128 (00_scope.md R8, 10_state.md R44). -/
def Config.trialCount : Word := 128#32

/-- FREE VALUE. `inv(2^w mod n, n)` for a modulus that is even: R12 defines `Rinv(n)` for odd n only.
It is met only by a completion in a state no run reaches (log 4). -/
opaque Config.freeRinv (w n : Nat) : Nat

/-- FREE VALUE. `x mod 0`: R11 defines `x mod n` for n ≥ 1 only.
It is met only by a completion in a state no run reaches (log 4). -/
opaque Config.freeModZero (x : Nat) : Nat

end Sys2Proof
end

