-- ==== Sys2Proof/Syntax.lean ====
section
/-! DEFINITION. The eight commands, one constructor for each row of spec/opcode_table.json. -/

namespace Sys2Proof

/-- The commands of 30_encoding.md R103. None carries an operand: every operand is a fixed register named
by the command's rule (R100, R102). -/
inductive Instr where
  /-- 40_common.md R138. -/
  | nop
  /-- 41_montgomery.md R152. -/
  | setup
  /-- 41_montgomery.md R155. -/
  | montmul
  /-- 41_montgomery.md R158. -/
  | tomont
  /-- 41_montgomery.md R160. -/
  | frommont
  /-- 42_modexp.md R182. -/
  | modexp
  /-- 43_fermat.md R204. -/
  | fermat
  /-- 43_fermat.md R208. -/
  | ftinit
  deriving DecidableEq, Repr

end Sys2Proof
end

