-- ==== Sys2Proof/WellFormed.lean ====
section
/-! DEFINITION. What can be presented to the block: commands, port addresses, instance sizes, register values. -/

namespace Sys2Proof

/-- Every command is well-formed: the format has no register fields, no immediates and no mode bits
(30_encoding.md R100), so a command has no field that could be out of range. -/
def Instr.wellFormed : Instr → Bool
  | .nop => true
  | .setup => true
  | .montmul => true
  | .tomont => true
  | .frommont => true
  | .modexp => true
  | .fermat => true
  | .ftinit => true

/-- A byte address the port can express: a multiple of 4 in 0x000 .. 0xFFC (20_memory.md R73, R74, R79). -/
def addrWellFormed (addr : Nat) : Bool := addr % 4 == 0 && decide (addr < 4096)

/-- A size an instance may have: 1 ≤ NW ≤ 128 (00_scope.md R6). -/
def sizeWellFormed (nw : Nat) : Bool := decide (1 ≤ nw) && decide (nw ≤ Config.maxNW)

/-- An integer a big register of `nw` words can hold: below 2^W (00_scope.md R10). -/
def valueWellFormed (nw v : Nat) : Bool := decide (v < 2 ^ (32 * nw))

end Sys2Proof
end

