-- ==== Sys2Proof/Decode.lean ====
section
/-! DEFINITION. The decoder of a CMD value, total on every 32-bit value, and the encoder. -/

namespace Sys2Proof

/-- Why a value is no command. The block reports both of the first two as ILLEGAL (30_encoding.md R104). -/
inductive DecodeReject where
  /-- RSVD = v[31:8] is not zero (R100, R104). -/
  | reservedBitsSet
  /-- OPCODE is 0x08 or above (R104). -/
  | unknownOpcode
  /-- Fewer than the four bytes of the one format (R101). -/
  | truncated
  deriving DecidableEq, Repr

/-- OPCODE = v[7:0] (30_encoding.md R100). -/
def opcodeField (v : Word) : Byte := v.extractLsb' 0 8

/-- RSVD = v[31:8] (30_encoding.md R100). -/
def reservedField (v : Word) : BitVec 24 := v.extractLsb' 8 24

/-- The command an opcode byte selects (30_encoding.md R103, R105). -/
def instrOfOpcode (op : Byte) : Option Instr :=
  if op = 0x00#8 then some .nop
  else if op = 0x01#8 then some .setup
  else if op = 0x02#8 then some .montmul
  else if op = 0x03#8 then some .tomont
  else if op = 0x04#8 then some .frommont
  else if op = 0x05#8 then some .modexp
  else if op = 0x06#8 then some .fermat
  else if op = 0x07#8 then some .ftinit
  else none

/-- `Decode(v)` of 30_encoding.md R105. -/
def decode (v : Word) : Except DecodeReject Instr :=
  if reservedField v ≠ 0#24 then .error .reservedBitsSet
  else match instrOfOpcode (opcodeField v) with
    | some i => .ok i
    | none => .error .unknownOpcode

/-- A command value from four bytes in rising address order. The block itself has no byte order; a bridge places
bits [7:0] at the lowest byte address (20_memory.md R76). Answers the command and the bytes after it. -/
def decodeBytes : List Byte → Except DecodeReject (Instr × List Byte)
  | b0 :: b1 :: b2 :: b3 :: rest =>
    match decode (b3 ++ b2 ++ b1 ++ b0) with
    | .ok i => .ok (i, rest)
    | .error e => .error e
  | _ => .error .truncated

/-- The OPCODE column of 30_encoding.md R103. -/
def opcode : Instr → Byte
  | .nop => 0x00#8
  | .setup => 0x01#8
  | .montmul => 0x02#8
  | .tomont => 0x03#8
  | .frommont => 0x04#8
  | .modexp => 0x05#8
  | .fermat => 0x06#8
  | .ftinit => 0x07#8

/-- The CMD value of 30_encoding.md R103: RSVD = 0 above the opcode. -/
def encode (i : Instr) : Word := 0x000000#24 ++ opcode i

/-- The CMD value of an opcode-table row: its low `nbits` bits of `w`, every bit above them 0. -/
def tableWord (nbits w : Nat) : Word := BitVec.ofNat 32 (w % 2 ^ nbits)

/-- The command the decoder reads from a row of spec/opcode_table.json, bits numbered as the table numbers them:
the 32-bit value goes to the decoder as the port carries it, whole (20_memory.md R76). A value of more than
32 bits is no command value (30_encoding.md R101). -/
def decodeTableWord (nbits w : Nat) : Option Instr :=
  if w % 2 ^ nbits < 2 ^ 32 then
    match decode (tableWord nbits w) with
    | .ok i => some i
    | .error _ => none
  else none

end Sys2Proof
end

