-- ==== Sys2Proof/Machine/State.lean ====
section
/-! DEFINITION. The state of the block, the events that move it, the ways a step can stop, and reset. -/

namespace Sys2Proof.Machine

/-- The six big registers (10_state.md R21). -/
inductive BigName where
  | n | a | b | e | res | rr
  deriving DecidableEq, Repr

/-- The two agents that act on the block's state (00_scope.md R13). -/
inductive Agent where
  | host | engine
  deriving DecidableEq, Repr

/-- One entry of what happens to the block, in order: a host access, a turn of the engine, or reset
(00_scope.md R13, R14; 20_memory.md R73, R80). -/
inductive Event where
  /-- `MemRead(4·widx, 4)` (20_memory.md R74). -/
  | read (widx : WordIndex)
  /-- `MemWrite(4·widx, 4, wdata)` (20_memory.md R75). -/
  | write (widx : WordIndex) (wdata : Word)
  /-- The engine's turn: the completion step where BUSY = 1 (40_common.md R134), no step where BUSY = 0. -/
  | engine
  /-- The reset event (70_reset_and_hazards.md R300). -/
  | reset
  deriving DecidableEq, Repr

/-- The machine's state. The fields from `n` to `curOp` are the spec's whole architectural state
(10_state.md R20); `nw` is the structural parameter of 00_scope.md R6, which no step changes; `inputs`, `turn`
and `rdata` are the model's own (INVENTORY.md, State). -/
structure State where
  /-- NW, words per big register (R6). -/
  nw : Nat
  /-- N, the modulus (R22). -/
  n : Limbs
  /-- A, the first operand (R23). -/
  a : Limbs
  /-- B, the second operand (R24). -/
  b : Limbs
  /-- E, the exponent (R25). -/
  e : Limbs
  /-- RES, the result (R26). -/
  res : Limbs
  /-- RR, the Montgomery conversion constant (R27). -/
  rr : Limbs
  /-- CTRL bit 0 (R33). -/
  ieDone : Bool
  /-- CTRL bit 1 (R33). -/
  ieErr : Bool
  /-- R36. -/
  busy : Bool
  /-- R37. -/
  done : Bool
  /-- R38. -/
  err : Bool
  /-- R39. -/
  wign : Bool
  /-- R40. -/
  modvalid : Bool
  /-- R42. -/
  ftPass : Bool
  /-- R42. -/
  ftComposite : Bool
  /-- R42. -/
  ftPrime : Bool
  /-- ERRINFO bits 7:0 (R43). -/
  errCode : Byte
  /-- ERRINFO bits 15:8 (R43). -/
  errOp : Byte
  /-- R44. -/
  ftK : Word
  /-- R45. -/
  ftCount : Word
  /-- Hidden: the opcode of the command in flight (R29). -/
  curOp : Byte
  /-- The model's own: what happens next, first first (R14, R51). -/
  inputs : List Event
  /-- The model's own: whose step is being taken (R13). -/
  turn : Agent
  /-- The model's own: the port's rdata in the step of a read, absent otherwise (R73). -/
  rdata : Option Word
  deriving DecidableEq, Repr

/-- The one way a step stops. -/
inductive Fault where
  /-- Raised by the engine's turn in Machine/Port.lean where BUSY = 1 and CUR_OP is the opcode of no command. CUR_OP is
  written only at an acceptance (40_common.md R132), so no run reaches it. Safe: the machine stops (log 4). -/
  | undecodableCommandInFlight (op : Byte)
  deriving DecidableEq, Repr

/-- The ways a step can have no meaning in the model. -/
inductive Refusal where
  /-- Raised by a rejected arm of `exec` only. Safe. No arm of this model raises it. -/
  | notModelled (mnemonic : String)
  deriving DecidableEq, Repr

/-- A big register of `nw` words that holds 0. -/
def zeroLimbs (nw : Nat) : Limbs := List.replicate nw 0#32

/-- The reset state of an instance of `nw` words (10_state.md R50): every big register and flag 0, FT_K = 128. -/
def resetOf (nw : Nat) : State where
  nw := nw
  n := zeroLimbs nw
  a := zeroLimbs nw
  b := zeroLimbs nw
  e := zeroLimbs nw
  res := zeroLimbs nw
  rr := zeroLimbs nw
  ieDone := false
  ieErr := false
  busy := false
  done := false
  err := false
  wign := false
  modvalid := false
  ftPass := false
  ftComposite := false
  ftPrime := false
  errCode := 0#8
  errOp := 0#8
  ftK := Config.trialCount
  ftCount := 0#32
  curOp := 0#8
  inputs := []
  turn := .engine
  rdata := none

/-- The reference instance (NW = 64, R6) right after reset. -/
def State.reset : State := resetOf Config.referenceNW

end Sys2Proof.Machine
end

