-- ==== Sys2Proof/Machine/Operands.lean ====
section
/-! DEFINITION. The big registers as integers and as words, and the address map. -/

namespace Sys2Proof.Machine

/-! ## Integers and words -/

/-- The integer of a big register: the sum of `X[i]·2^(32·i)` (00_scope.md R9, 30_encoding.md R102). -/
def limbsValue : Limbs → Nat
  | [] => 0
  | w :: ws => w.toNat + 2 ^ 32 * limbsValue ws

/-- The `nw` words of an integer, word 0 first (00_scope.md R9, R11 `X <- v`). -/
def limbsOf : Nat → Nat → Limbs
  | 0, _ => []
  | k + 1, v => BitVec.ofNat 32 v :: limbsOf k (v / 2 ^ 32)

/-- `X[i]`, a word of a big register (R11). -/
def wordAt (ws : Limbs) (i : Nat) : Word := ws.getD i 0#32

/-- `X[i] <- v` (R11). -/
def setWordAt (ws : Limbs) (i : Nat) (v : Word) : Limbs := ws.set i v

/-! ## The registers of a state -/

/-- The words of a big register (10_state.md R21). -/
def bigReg (s : State) : BigName → Limbs
  | .n => s.n
  | .a => s.a
  | .b => s.b
  | .e => s.e
  | .res => s.res
  | .rr => s.rr

/-- The integer value of a big register (00_scope.md R11: `X`). -/
def value (s : State) (r : BigName) : Nat := limbsValue (bigReg s r)

/-- W = 32·NW (00_scope.md R6). -/
def width (s : State) : Nat := 32 * s.nw

/-- `RES <- v` at a completion (10_state.md R26). -/
def setRes (v : Nat) (s : State) : State := { s with res := limbsOf s.nw v }

/-! ## The address map -/

/-- A location of the register space (20_memory.md R71). -/
inductive Loc where
  | id | cfg | ctrl | cmd | status | errinfo | ftK | ftCount
  /-- Word `i` of a big register, i < NW (R72). -/
  | big (r : BigName) (i : Nat)
  /-- Every address the map does not assign (R71, 10_state.md R46). -/
  | reserved
  deriving DecidableEq, Repr

/-- The operand windows in units of 0x200 bytes, 128 words: N at 0x200 up to RR at 0xC00 (20_memory.md R72). -/
def windowOf : Nat → Option BigName
  | 1 => some .n
  | 2 => some .a
  | 3 => some .b
  | 4 => some .e
  | 5 => some .res
  | 6 => some .rr
  | _ => none

/-- The control registers at word indices 0 to 7, byte addresses 0x000 to 0x01C (20_memory.md R71); the rest of the
first 0x200 bytes is reserved. -/
def controlLoc : Nat → Loc
  | 0 => .id
  | 1 => .cfg
  | 2 => .ctrl
  | 3 => .cmd
  | 4 => .status
  | 5 => .errinfo
  | 6 => .ftK
  | 7 => .ftCount
  | _ => .reserved

/-- The location of a word index in an instance of `nw` words (20_memory.md R71, R72). -/
def locate (nw : Nat) (widx : WordIndex) : Loc :=
  if widx.toNat < 128 then controlLoc widx.toNat
  else match windowOf (widx.toNat / 128) with
    | some r => if widx.toNat % 128 < nw then .big r (widx.toNat % 128) else .reserved
    | none => .reserved

/-- The number of an operand window (20_memory.md R72), the inverse of `windowOf`. -/
def windowIndex : BigName → Nat
  | .n => 1
  | .a => 2
  | .b => 3
  | .e => 4
  | .res => 5
  | .rr => 6

/-- The word index of word `i` of a big register: (window base + 4·i)/4 (20_memory.md R72). -/
def bigIndex (r : BigName) (i : Nat) : WordIndex := BitVec.ofNat 10 (128 * windowIndex r + i)

/-- The word index of CMD, byte address 0x00C (10_state.md R34). -/
def cmdIndex : WordIndex := 3#10

/-- The word index of STATUS, byte address 0x010 (10_state.md R35). -/
def statusIndex : WordIndex := 4#10

/-- The word index of a byte address the port can express (20_memory.md R73: byte address = 4·widx). -/
def indexOfAddr (addr : Nat) : Option WordIndex :=
  if addrWellFormed addr then some (BitVec.ofNat 10 (addr / 4)) else none

end Sys2Proof.Machine
end

