-- ==== Sys2Proof/Machine/Arith.lean ====
section
/-! DEFINITION. The integer functions the commands are defined by (00_scope.md R12). -/

namespace Sys2Proof.Machine

/-- `odd(x)`: bit 0 is 1 (R11). -/
def isOdd (x : Nat) : Bool := x % 2 == 1

/-- `x mod n` of R11, defined there for n ≥ 1; a free value for n = 0 (log 4). -/
def modN (x n : Nat) : Nat := if n = 0 then Config.freeModZero x else x % n

/-- `a^e mod n` by squaring, `k` bits of `e`: it computes what R12 writes as a power (`powMod_eq` in Laws/Arith.lean). -/
def powModBits : Nat → Nat → Nat → Nat → Nat
  | 0, _, _, n => 1 % n
  | k + 1, a, e, n =>
    if e % 2 = 1 then a * powModBits k (a * a % n) (e / 2) n % n
    else powModBits k (a * a % n) (e / 2) n

/-- `a^e mod n` for n ≥ 1. -/
def powMod (a e n : Nat) : Nat := powModBits (e.log2 + 1) a e n

/-- `ModExp(a, e, n) = (a^e) mod n` (R12), defined there for n ≥ 1; the free value of `modN` for n = 0. -/
def modExp (a e n : Nat) : Nat := if n = 0 then modN (a ^ e) n else powMod a e n

/-- `Rinv(n) = inv(2^w mod n, n)` (R12), defined there for odd n: the w-th power of the inverse (n+1)/2 of 2
(`rInv_spec` in Laws/Arith.lean). A free value for even n (log 4). -/
def rInv (w n : Nat) : Nat := if isOdd n then powMod ((n + 1) / 2) w n else Config.freeRinv w n

/-- `MontMul(a, b, n) = (a·b·Rinv(n)) mod n` for the radix 2^w (R12, 41_montgomery.md R150). -/
def montMul (w a b n : Nat) : Nat := modN (a * b * rInv w n) n

end Sys2Proof.Machine
end

