-- ==== Sys2Proof/Machine/Flags.lean ====
section
/-! DEFINITION. The control and status registers as read and written, the derived flags and the interrupt output. -/

namespace Sys2Proof.Machine

/-- ZERO: RES = 0 (10_state.md R41). -/
def zeroFlag (s : State) : Bool := value s .res == 0

/-- ONE: RES = 1 (10_state.md R41). -/
def oneFlag (s : State) : Bool := value s .res == 1

/-- `irq = (DONE and IE_DONE) or (ERR and IE_ERR)` (60_exceptions.md R270). -/
def irq (s : State) : Bool := (s.done && s.ieDone) || (s.err && s.ieErr)

/-- A word with a flag at bit `k` and 0 elsewhere. -/
def flagAt (k : Nat) (f : Bool) : Word := if f then 1#32 <<< k else 0#32

/-- ID reads 0x46454D31 always (10_state.md R31). -/
def idValue : Word := 0x46454D31#32

/-- CFG: bits [7:0] NW, bits [31:8] 0 (10_state.md R32). -/
def cfgWord (s : State) : Word := 0#24 ++ BitVec.ofNat 8 s.nw

/-- CTRL as read: `zext_32(IE_ERR ‖ IE_DONE)` (10_state.md R33). -/
def ctrlWord (s : State) : Word := flagAt 0 s.ieDone ||| flagAt 1 s.ieErr

/-- STATUS as read, the layout of 10_state.md R35. -/
def statusWord (s : State) : Word :=
  flagAt 0 s.busy ||| flagAt 1 s.done ||| flagAt 2 s.err ||| flagAt 3 s.wign ||| flagAt 4 s.modvalid |||
  flagAt 8 (zeroFlag s) ||| flagAt 9 (oneFlag s) |||
  flagAt 16 s.ftPass ||| flagAt 17 s.ftComposite ||| flagAt 18 s.ftPrime

/-- ERRINFO as read: ERR_CODE in bits [7:0], ERR_OP in bits [15:8] (10_state.md R43). -/
def errinfoWord (s : State) : Word := 0#16 ++ (s.errOp ++ s.errCode)

/-- A write of CTRL (10_state.md R33). -/
def writeCtrl (v : Word) (s : State) : State := { s with ieDone := v[0], ieErr := v[1] }

/-- The acknowledge of an error, the block's "trap return": ERR, ERR_CODE and ERR_OP fall together
(10_state.md R35, 60_exceptions.md R266). -/
def acknowledgeError (s : State) : State := { s with err := false, errCode := 0#8, errOp := 0#8 }

/-- The write-one-to-clear bits DONE and WIGN: bits 1 and 3 (10_state.md R35). -/
def clearDoneWign (v : Word) (s : State) : State := { s with done := s.done && !v[1], wign := s.wign && !v[3] }

/-- A write of STATUS: the three write-one-to-clear bits, every other bit ignored (10_state.md R35). -/
def writeStatus (v : Word) (s : State) : State :=
  if v[2] then acknowledgeError (clearDoneWign v s) else clearDoneWign v s

/-- `FT_COUNT <- 0; FT_PASS <- 0; FT_COMPOSITE <- 0; FT_PRIME <- 0` (10_state.md R22, 43_fermat.md R208). -/
def clearFermat (s : State) : State :=
  { s with ftCount := 0#32, ftPass := false, ftComposite := false, ftPrime := false }

/-- `sat32(FT_COUNT + 1)` (00_scope.md R11, 43_fermat.md R206). -/
def satSucc (c : Word) : Word := BitVec.ofNat 32 (min (c.toNat + 1) (2 ^ 32 - 1))

end Sys2Proof.Machine
end

