-- ==== Sys2Proof/Machine/Ops.lean ====
section
/-! DEFINITION. The operations every access and every command share: reading and writing a location, the lock, raising
an error, accepting a command, completing it. -/

namespace Sys2Proof.Machine

/-! ## Host accesses -/

/-- What a read of a location returns (20_memory.md R74). -/
def readLoc (s : State) : Loc → Word
  | .id => idValue
  | .cfg => cfgWord s
  | .ctrl => ctrlWord s
  | .cmd => 0#32
  | .status => statusWord s
  | .errinfo => errinfoWord s
  | .ftK => s.ftK
  | .ftCount => s.ftCount
  | .big r i => wordAt (bigReg s r) i
  | .reserved => 0#32

/-- `MemRead(4·widx, 4)` (20_memory.md R74): the model's read of one location of the register space. -/
def readWord (s : State) (widx : WordIndex) : Word := readLoc s (locate s.nw widx)

/-- A write dropped by a lock: `WIGN <- 1` and nothing else (10_state.md R39, 20_memory.md R77). -/
def lockedWrite (s : State) : State := { s with wign := true }

/-- A performed write to a word of N: it stores the word, clears MODVALID, zeroes RR and clears the Fermat bookkeeping,
whatever the value (10_state.md R22). -/
def storeModulus (i : Nat) (v : Word) (s : State) : State :=
  clearFermat { s with n := setWordAt s.n i v, modvalid := false, rr := zeroLimbs s.nw }

/-- A performed write to a word of a big register (20_memory.md R75): N with its side effects, A, B and E stored,
RES and RR ignored. -/
def storeBig (r : BigName) (i : Nat) (v : Word) (s : State) : State :=
  match r with
  | .n => storeModulus i v s
  | .a => { s with a := setWordAt s.a i v }
  | .b => { s with b := setWordAt s.b i v }
  | .e => { s with e := setWordAt s.e i v }
  | .res => s
  | .rr => s

/-- The big registers the lock covers (20_memory.md R77); RES and RR are read-only (R78). -/
def isOperand : BigName → Bool
  | .n | .a | .b | .e => true
  | .res | .rr => false

/-! ## Errors -/

/-- The causes of 60_exceptions.md R261. -/
inductive ErrCode where
  | illegalCmd | modEven | noSetup | operandRange | baseRange
  deriving DecidableEq, Repr

/-- The ERR_CODE byte of a cause (60_exceptions.md R261). -/
def errByte : ErrCode → Byte
  | .illegalCmd => 0x01#8
  | .modEven => 0x02#8
  | .noSetup => 0x03#8
  | .operandRange => 0x04#8
  | .baseRange => 0x05#8

/-- `raise Error(code)`, the block's "trap entry" (60_exceptions.md R262); `op` is v[7:0] of the refused CMD value. -/
def raiseError (c : ErrCode) (op : Byte) (s : State) : State :=
  { s with err := true, errCode := errByte c, errOp := op }

/-! ## The life of a command -/

/-- `Accept(d)`: `DONE <- 0; BUSY <- 1; CUR_OP <- d` (40_common.md R132). -/
def acceptCommand (op : Byte) (s : State) : State := { s with done := false, busy := true, curOp := op }

/-- The lock of CMD: a CMD write is dropped while BUSY = 1 or ERR = 1 (40_common.md R130, R131). -/
def cmdLocked (s : State) : Bool := s.busy || s.err

/-- Dispatch of a CMD write (40_common.md R130): dropped, refused with the failing check's cause, or accepted.
`op` is v[7:0] and `verdict` the outcome of decoding and `Check`, `none` for OK. -/
def writeCommand (op : Byte) (verdict : Option ErrCode) (s : State) : State :=
  if cmdLocked s then lockedWrite s
  else match verdict with
    | some c => raiseError c op s
    | none => acceptCommand op s

/-- `BUSY <- 0; DONE <- 1`, the end of every completion (40_common.md R134). -/
def finishCommand (s : State) : State := { s with busy := false, done := true }

/-- The completion of the command whose opcode is `op` (40_common.md R134): enabled exactly when BUSY = 1 and that command
is the one in flight; where it is not enabled the engine has no step. -/
def completeCommand (op : Byte) (effect : State → State) (s : State) : State :=
  if s.busy && s.curOp == op then finishCommand (effect s) else s

/-- One step of a command: in the host's turn its value is written to CMD, in the engine's turn it completes
(00_scope.md R13, 40_common.md R130, R134; log 1). -/
def runCommand (i : Instr) (check : State → Option ErrCode) (effect : State → State) (s : State) :
    Host.Outcome State Fault Refusal :=
  match s.turn with
  | .host => .next (writeCommand (opcode i) (check s) s)
  | .engine => .next (completeCommand (opcode i) effect s)

/-- A CMD write whose value is not one of the eight (30_encoding.md R104): ILLEGAL_CMD, or dropped without being
decoded. -/
def writeIllegalCommand (v : Word) (s : State) : State := writeCommand (opcodeField v) (some .illegalCmd) s

/-- `Check(d)` of a command without validation (40_common.md R138, 43_fermat.md R208). -/
def noCheck (_ : State) : Option ErrCode := none

/-- The check shared by TOMONT, FROMMONT and MODEXP: NO_SETUP where MODVALID = 0 (10_state.md R40). -/
def setupCheck (s : State) : Option ErrCode := if s.modvalid then none else some .noSetup

/-- A host write to a location other than a CMD write that names a command (20_memory.md R75). The arm of `.cmd` is
reached only with a value no command decodes from. -/
def writeLoc (l : Loc) (v : Word) (s : State) : State :=
  match l with
  | .ctrl => writeCtrl v s
  | .status => writeStatus v s
  | .cmd => writeIllegalCommand v s
  | .ftK => if s.busy then lockedWrite s else { s with ftK := v }
  | .big r i => if isOperand r && s.busy then lockedWrite s else storeBig r i v s
  | .id => s
  | .cfg => s
  | .errinfo => s
  | .ftCount => s
  | .reserved => s

/-- The model's bookkeeping at the start of a step: whose turn it is, what is left to happen, and no read data yet. -/
def beginStep (t : Agent) (rest : List Event) (s : State) : State :=
  { s with turn := t, inputs := rest, rdata := none }

/-- The value a read puts on rdata (20_memory.md R73, R74); nothing else changes. -/
def presentRead (widx : WordIndex) (s : State) : State := { s with rdata := some (readWord s widx) }

end Sys2Proof.Machine
end

