-- ==== Sys2Proof/Machine/Common.lean ====
section
/-! DEFINITION. NOP (40_common.md). -/

namespace Sys2Proof.Machine

/-- NOP: no check, no effect (40_common.md R138). -/
def execNop (s : State) : Host.Outcome State Fault Refusal := runCommand .nop noCheck id s

end Sys2Proof.Machine
end

