-- ==== Sys2Proof/Machine/Fermat.lean ====
section
/-! DEFINITION. The Fermat-trial unit: FERMAT and FTINIT (43_fermat.md). -/

namespace Sys2Proof.Machine

/-- FERMAT's checks, in the order of R204. -/
def checkFermat (s : State) : Option ErrCode :=
  if value s .n ≤ 3 then none
  else if !isOdd (value s .n) then some .modEven
  else if !s.modvalid then some .noSetup
  else if value s .a = 0 ∨ value s .n ≤ value s .a then some .baseRange
  else none

/-- The passing branch of a trial (R206): FT_PASS, the saturating count, and FT_PRIME where no witness was found and the
new count has reached FT_K. -/
def trialPassed (s : State) : State :=
  { s with
    ftPass := true
    ftCount := satSucc s.ftCount
    ftPrime := s.ftPrime || (!s.ftComposite && decide (s.ftK.toNat ≤ (satSucc s.ftCount).toNat)) }

/-- The failing branch of a trial (R206) and the verdict on N ≤ 1 (R205). -/
def foundComposite (s : State) : State := { s with ftPass := false, ftComposite := true, ftPrime := false }

/-- The verdict on N = 2 and N = 3 (R205). -/
def foundSmallPrime (s : State) : State := { s with ftPass := true, ftPrime := true }

/-- One trial (R206): `r = ModExp(A, N − 1, N); RES <- r`, then the branch on r = 1. -/
def fermatTrial (s : State) : State :=
  let r := modExp (value s .a) (value s .n - 1) (value s .n)
  if r = 1 then trialPassed (setRes r s) else foundComposite (setRes r s)

/-- FERMAT's completion (R205, R206). -/
def effectFermat (s : State) : State :=
  if value s .n ≤ 1 then foundComposite s
  else if value s .n ≤ 3 then foundSmallPrime s
  else fermatTrial s

/-- FERMAT (R204 to R207). -/
def execFermat (s : State) : Host.Outcome State Fault Refusal := runCommand .fermat checkFermat effectFermat s

/-- FTINIT: no check; it clears the Fermat bookkeeping (R208). -/
def execFtinit (s : State) : Host.Outcome State Fault Refusal := runCommand .ftinit noCheck clearFermat s

end Sys2Proof.Machine
end

