-- ==== Sys2Proof/Machine/Modexp.lean ====
section
/-! DEFINITION. The modular-exponentiation engine: MODEXP (42_modexp.md). -/

namespace Sys2Proof.Machine

/-- MODEXP's completion: `RES <- ModExp(A, E, N)` (R182). -/
def effectModexp (s : State) : State := setRes (modExp (value s .a) (value s .e) (value s .n)) s

/-- MODEXP (R182, R183). -/
def execModexp (s : State) : Host.Outcome State Fault Refusal := runCommand .modexp setupCheck effectModexp s

end Sys2Proof.Machine
end

