-- ==== Sys2Proof/Machine/Montgomery.lean ====
section
/-! DEFINITION. The Montgomery multiplier: SETUP, MONTMUL, TOMONT, FROMMONT (41_montgomery.md). -/

namespace Sys2Proof.Machine

/-- SETUP's check: MOD_EVEN where bit 0 of N is 0 (R152). -/
def checkSetup (s : State) : Option ErrCode := if isOdd (value s .n) then none else some .modEven

/-- SETUP's completion: `RR <- (2^(2·W)) mod N; MODVALID <- 1` (R152). -/
def effectSetup (s : State) : State :=
  { s with rr := limbsOf s.nw (modN (2 ^ (2 * width s)) (value s .n)), modvalid := true }

/-- MONTMUL's checks: NO_SETUP, then OPERAND_RANGE where A ≥ N or B ≥ N (R155). -/
def checkMontmul (s : State) : Option ErrCode :=
  if s.modvalid then
    if value s .n ≤ value s .a ∨ value s .n ≤ value s .b then some .operandRange else none
  else some .noSetup

/-- MONTMUL's completion: `RES <- MontMul(A, B, N)` (R155). -/
def effectMontmul (s : State) : State :=
  setRes (montMul (width s) (value s .a) (value s .b) (value s .n)) s

/-- TOMONT's completion: `RES <- (A · R) mod N` (R158). -/
def effectTomont (s : State) : State := setRes (modN (value s .a * 2 ^ width s) (value s .n)) s

/-- FROMMONT's completion: `RES <- (A · Rinv(N)) mod N` (R160). -/
def effectFrommont (s : State) : State :=
  setRes (modN (value s .a * rInv (width s) (value s .n)) (value s .n)) s

/-- SETUP (R152, R153). -/
def execSetup (s : State) : Host.Outcome State Fault Refusal := runCommand .setup checkSetup effectSetup s

/-- MONTMUL (R155, R156). -/
def execMontmul (s : State) : Host.Outcome State Fault Refusal := runCommand .montmul checkMontmul effectMontmul s

/-- TOMONT (R158). -/
def execTomont (s : State) : Host.Outcome State Fault Refusal := runCommand .tomont setupCheck effectTomont s

/-- FROMMONT (R160). -/
def execFrommont (s : State) : Host.Outcome State Fault Refusal := runCommand .frommont setupCheck effectFrommont s

end Sys2Proof.Machine
end

