-- ==== Sys2Proof/Machine/Dispatch.lean ====
section
/-! DEFINITION. One arm for each command. -/

namespace Sys2Proof.Machine

/-- One step of command `i`: the write of its value to CMD in the host's turn, its completion in the engine's. -/
def exec (i : Instr) (s : State) : Host.Outcome State Fault Refusal :=
  match i with
  | .nop => Sys2Proof.Machine.execNop s
  | .setup => Sys2Proof.Machine.execSetup s
  | .montmul => Sys2Proof.Machine.execMontmul s
  | .tomont => Sys2Proof.Machine.execTomont s
  | .frommont => Sys2Proof.Machine.execFrommont s
  | .modexp => Sys2Proof.Machine.execModexp s
  | .fermat => Sys2Proof.Machine.execFermat s
  | .ftinit => Sys2Proof.Machine.execFtinit s

end Sys2Proof.Machine
end

