-- ==== Sys2Proof/Machine/Port.lean ====
section
/-! DEFINITION. What the next event does: which command a step runs, or what it does where it runs none. -/

namespace Sys2Proof.Machine

/-- What a step finds to do. -/
inductive Fetched where
  /-- Command `i` has its step in state `s`: its value is written to CMD, or it completes. -/
  | command (i : Instr) (s : State)
  /-- No command has a step: the outcome is this. -/
  | settled (o : Host.Outcome State Fault Refusal)
  deriving Repr

/-- A host write (20_memory.md R75): a CMD value that names a command is that command's step, everything else is
settled by the location. -/
def hostWrite (widx : WordIndex) (v : Word) (s : State) : Fetched :=
  match locate s.nw widx, decode v with
  | .cmd, .ok i => .command i s
  | l, _ => .settled (.next (writeLoc l v s))

/-- The engine's turn: the completion of the command in flight where BUSY = 1, no step where BUSY = 0
(00_scope.md R13, 40_common.md R134). -/
def engineTurn (s : State) : Fetched :=
  if s.busy then
    match instrOfOpcode s.curOp with
    | some i => .command i s
    | none => .settled (.fault (.undecodableCommandInFlight s.curOp))
  else .settled (.next s)

/-- The next event (00_scope.md R13, R14). With no event left the engine has its turn, so an accepted command is
eventually completed (weak fairness, 40_common.md R135) and an idle block stays as it is (70_reset_and_hazards.md
R303). Reset goes from any state to the reset state of the same instance (R300); what the host does later is not
the block's state and stays. -/
def fetch (s : State) : Fetched :=
  match s.inputs with
  | [] => engineTurn (beginStep .engine [] s)
  | .engine :: rest => engineTurn (beginStep .engine rest s)
  | .read w :: rest => .settled (.next (presentRead w (beginStep .host rest s)))
  | .write w v :: rest => hostWrite w v (beginStep .host rest s)
  | .reset :: rest => .settled (.next (beginStep .engine rest (resetOf s.nw)))

/-- The state with a write of `v` to CMD as the very next event. -/
def queueCommandWord (v : Word) (s : State) : State := { s with inputs := .write cmdIndex v :: s.inputs }

end Sys2Proof.Machine
end

