-- ==== Sys2Proof/Machine/Step.lean ====
section
/-! DEFINITION. One step of the machine: the next event, and the command it runs if it runs one. -/

namespace Sys2Proof.Machine

/-- One step (00_scope.md R13, R14). -/
def step (s : State) : Host.Outcome State Fault Refusal :=
  match fetch s with
  | .command i s' => exec i s'
  | .settled o => o

/-- The state in which the very next step is the write of an opcode-table word to CMD, which is how a command is
fetched (10_state.md R34). -/
def State.withFetchWord (s : State) (nbits w : Nat) : State := queueCommandWord (tableWord nbits w) s

end Sys2Proof.Machine
end

