-- ==== Sys2Proof/Machine/Reference.lean ====
section
/-! DEFINITION. The reference algorithms of the multiplier and of the exponentiation. The commands are defined by the
functions of Machine/Arith.lean; these loops are the spec's cross-check of them (41_montgomery.md R151, 42_modexp.md
R181). -/

namespace Sys2Proof.Machine

/-- `bit(x, i)`. -/
def bitOf (x i : Nat) : Nat := x / 2 ^ i % 2

/-- One iteration of the loop of R151. -/
def serialStep (a b n acc i : Nat) : Nat :=
  let t := acc + bitOf a i * b
  (if isOdd t then t + n else t) / 2

/-- The accumulator S after `k` iterations of the loop of R151. -/
def serialAcc (a b n : Nat) : Nat → Nat
  | 0 => 0
  | k + 1 => serialStep a b n (serialAcc a b n k) k

/-- The whole of R151 for the radix 2^w: the loop and the one conditional subtraction. -/
def serialMontMul (w a b n : Nat) : Nat :=
  if n ≤ serialAcc a b n w then serialAcc a b n w - n else serialAcc a b n w

/-- One iteration of the loop of R181: square, and multiply where bit `i` of the exponent is 1. -/
def ladderStep (w n xm e acc i : Nat) : Nat :=
  let sq := serialMontMul w acc acc n
  if bitOf e i = 1 then serialMontMul w sq xm n else sq

/-- The loop of R181 over the bits `k − 1` down to 0 of the exponent. -/
def ladder (w n xm e : Nat) : Nat → Nat → Nat
  | 0, acc => acc
  | k + 1, acc => ladder w n xm e k (ladderStep w n xm e acc k)

/-- The whole of R181, every product by the loop of R151, with RR = 2^(2·w) mod n. -/
def ladderModExp (w a e n : Nat) : Nat :=
  let rr := 2 ^ (2 * w) % n
  serialMontMul w (ladder w n (serialMontMul w a rr n) e w (serialMontMul w 1 rr n)) 1 n

end Sys2Proof.Machine
end

