-- ==== Sys2Proof/Machine/Script.lean ====
section
/-! DEFINITION. The notation for a host's sequence of register accesses (30_encoding.md R108 to R110): a script line
becomes the events it stands for. -/

namespace Sys2Proof.Machine

/-- A line of a host script: the primitive lines of R108 and the pseudo-lines of R109. `wait k` is a `WAIT` whose run took
`k` reads that found BUSY = 1, then the completion, then the read that finds BUSY = 0. -/
inductive ScriptLine where
  | wr (addr : Nat) (v : Word)
  | rd (addr : Nat)
  | expect (addr : Nat) (v mask : Word)
  | cmd (i : Instr)
  | load (x : BigName) (v : Nat)
  | read (x : BigName)
  | move (x y : BigName)
  | expectBig (x : BigName) (v : Nat)
  | wait (polls : Nat)
  | clrDone
  | clrErr
  | clrWign
  | reset
  deriving DecidableEq, Repr

/-- What R108 and R109 ask of a line on an instance of `nw` words: an address the port can express, a destination the
host can write, a value below 2^W. -/
def ScriptLine.wellFormed (nw : Nat) : ScriptLine → Bool
  | .wr addr _ => addrWellFormed addr
  | .rd addr => addrWellFormed addr
  | .expect addr _ _ => addrWellFormed addr
  | .cmd i => i.wellFormed
  | .load x v => isOperand x && valueWellFormed nw v
  | .read _ => true
  | .move x _ => isOperand x
  | .expectBig _ v => valueWellFormed nw v
  | .wait _ => true
  | .clrDone => true
  | .clrErr => true
  | .clrWign => true
  | .reset => true

/-- A port transaction (sel, we, widx, wdata) (R108); wdata is absent in a read. -/
structure PortCycle where
  sel : Bool
  we : Bool
  widx : WordIndex
  wdata : Option Word
  deriving DecidableEq, Repr

/-- The port transaction of an event; the engine's turn and reset are none (R109, R110). -/
def portCycle : Event → Option PortCycle
  | .read w => some ⟨true, false, w, none⟩
  | .write w v => some ⟨true, true, w, some v⟩
  | .engine => none
  | .reset => none

/-- The reads of the words `i, i+1, …` of a big register, `k` of them, in rising order. -/
def readEvents (x : BigName) : Nat → Nat → List Event
  | _, 0 => []
  | i, k + 1 => .read (bigIndex x i) :: readEvents x (i + 1) k

/-- The writes of a list of words to the words `i, i+1, …` of a big register, in rising order. -/
def storeEvents (x : BigName) : Nat → List Word → List Event
  | _, [] => []
  | i, w :: ws => .write (bigIndex x i) w :: storeEvents x (i + 1) ws

/-- `LOAD X, v`: all NW words, the upper ones with 0 (R109). -/
def loadEvents (nw : Nat) (x : BigName) (v : Nat) : List Event := storeEvents x 0 (limbsOf nw v)

/-- `CMD <mnemonic>` (R109). -/
def cmdEvent (i : Instr) : Event := .write cmdIndex (encode i)

/-- `MOVE X, Y` from state `s`, the last `k` of the NW words: each word is read from Y, then written to X (R109). -/
def moveEvents (x y : BigName) : Nat → State → List Event
  | 0, _ => []
  | k + 1, s =>
    .read (bigIndex y (s.nw - (k + 1))) ::
    .write (bigIndex x (s.nw - (k + 1))) (readWord s (bigIndex y (s.nw - (k + 1)))) ::
    moveEvents x y k
      (writeLoc (locate s.nw (bigIndex x (s.nw - (k + 1)))) (readWord s (bigIndex y (s.nw - (k + 1)))) s)

/-- The events of one access at a byte address; none where the port cannot express it. -/
def accessEvents (addr : Nat) (f : WordIndex → Event) : List Event :=
  match indexOfAddr addr with
  | some w => [f w]
  | none => []

/-- `WAIT` (R109): `polls` reads of STATUS that find BUSY = 1, the engine's step, and the last read. -/
def waitEvents (polls : Nat) : List Event :=
  List.replicate polls (.read statusIndex) ++ [.engine, .read statusIndex]

/-- The events a line stands for when it starts in state `s` (R108, R109). -/
def ScriptLine.events (s : State) : ScriptLine → List Event
  | .wr addr v => accessEvents addr (fun w => .write w v)
  | .rd addr => accessEvents addr .read
  | .expect addr _ _ => accessEvents addr .read
  | .cmd i => [cmdEvent i]
  | .load x v => loadEvents s.nw x v
  | .read x => readEvents x 0 s.nw
  | .move x y => moveEvents x y s.nw s
  | .expectBig x _ => readEvents x 0 s.nw
  | .wait polls => waitEvents polls
  | .clrDone => [.write statusIndex 0x2#32]
  | .clrErr => [.write statusIndex 0x4#32]
  | .clrWign => [.write statusIndex 0x8#32]
  | .reset => [.reset]

/-- What an `EXPECT` or `EXPECTBIG` line claims of the state its reads are made in (R108, R109); true for every other
line. -/
def ScriptLine.claim (s : State) : ScriptLine → Bool
  | .expect addr v mask =>
    match indexOfAddr addr with
    | some w => (readWord s w &&& mask) == (v &&& mask)
    | none => false
  | .expectBig x v => bigReg s x == limbsOf s.nw v
  | _ => true

/-- The state with `es` as all that happens next. -/
def withEvents (es : List Event) (s : State) : State := { s with inputs := es }

/-- The run of a list of events, one step for each. -/
def runEvents (es : List Event) (s : State) : Host.Outcome State Fault Refusal :=
  Sys2Proof.core.run es.length (withEvents es s)

/-- The run of a script, line by line (R108). -/
def runScript : List ScriptLine → State → Host.Outcome State Fault Refusal
  | [], s => .next s
  | l :: ls, s =>
    match runEvents (l.events s) s with
    | .next s' => runScript ls s'
    | .fault r => .fault r
    | .refused r => .refused r

/-- Whether every claim a script makes holds where it is made. -/
def scriptClaims : List ScriptLine → State → Bool
  | [], _ => true
  | l :: ls, s =>
    l.claim s &&
      match runEvents (l.events s) s with
      | .next s' => scriptClaims ls s'
      | .fault _ => false
      | .refused _ => false

end Sys2Proof.Machine
end

