-- ==== Sys2Proof/Safety.lean ====
section
/-! DEFINITION. What holds of every run: the invariants of 10_state.md R47 and what a command in flight was accepted with. -/

namespace Sys2Proof.Machine

/-- The condition under which a command passes its checks, in the words of its own rule. -/
def Admitted (s : State) : Instr → Prop
  | .nop => True
  | .setup => value s .n % 2 = 1
  | .montmul => s.modvalid = true ∧ value s .a < value s .n ∧ value s .b < value s .n
  | .tomont => s.modvalid = true
  | .frommont => s.modvalid = true
  | .modexp => s.modvalid = true
  | .fermat => value s .n ≤ 3 ∨
      (value s .n % 2 = 1 ∧ s.modvalid = true ∧ 1 ≤ value s .a ∧ value s .a < value s .n)
  | .ftinit => True

/-- The size of the instance is in range and every big register has its NW words (00_scope.md R6, 10_state.md R21). -/
structure Sized (s : State) : Prop where
  size : 1 ≤ s.nw ∧ s.nw ≤ Config.maxNW
  regs : ∀ r, (bigReg s r).length = s.nw

/-- What every step keeps. The fields from `busyErr` to `primePass` are items (1) to (7) of 10_state.md R47; the others are
what they need to be kept: the sizes, the cause codes that exist (60_exceptions.md R261), the verdict on N = 2 and N = 3
(43_fermat.md R205), and that a command in flight is one that passed its checks (40_common.md R132, R133). -/
structure BlockInv (s : State) : Prop where
  sized : Sized s
  busyErr : ¬(s.busy = true ∧ s.err = true)
  busyDone : ¬(s.busy = true ∧ s.done = true)
  validOdd : s.modvalid = true → value s .n % 2 = 1 ∧ value s .rr = 2 ^ (2 * width s) % value s .n
  invalidZero : s.modvalid = false → value s .rr = 0
  errCodeZero : s.err = false ↔ s.errCode = 0#8
  errOpZero : s.err = false → s.errOp = 0#8
  errCodeRange : s.errCode.toNat ≤ 5
  primeComposite : ¬(s.ftPrime = true ∧ s.ftComposite = true)
  primePass : s.ftPrime = true → s.ftPass = true
  smallPrimeClean : value s .n = 2 ∨ value s .n = 3 → s.ftComposite = false
  inFlight : s.busy = true → ∃ i, s.curOp = opcode i ∧ Admitted s i

/-- A state some run from reset reaches: any instance, any list of host accesses, engine turns and resets, any number of
steps (00_scope.md R13, R14). -/
def Reachable (s : State) : Prop :=
  ∃ nw es k, sizeWellFormed nw = true ∧ Sys2Proof.core.run k (withEvents es (resetOf nw)) = .next s

/-- The step of a state neither faults nor is refused. -/
def Completes (s : State) : Prop := ∃ t, step s = .next t

/-- Two states that differ in the hidden register CUR_OP at most (10_state.md R29). -/
def SameButCurOp (s t : State) : Prop := { s with curOp := t.curOp } = t

/-- An event that is an access of the host. -/
def isAccess : Event → Bool
  | .read _ => true
  | .write _ _ => true
  | .engine => false
  | .reset => false

end Sys2Proof.Machine
end

