-- ==== Sys2Proof/Certificates/Slice0/Obligations.lean ====
section
/-! DEFINITION. The statements about the block, each from the numbered rules of spec/ named in its docstring. -/

open Sys2Proof Sys2Proof.Machine

/-! ## Vocabulary of the statements -/

/-- The next event is a write of `v` to CMD (byte address 0x00C). -/
abbrev Sys2Proof.Machine.WritesCmd (s : State) (v : Word) (rest : List Event) : Prop :=
  s.inputs = .write 3#10 v :: rest

/-- The state after `raise Error(code)` for a refused CMD value with low byte `op` (60_exceptions.md R262). -/
abbrev Sys2Proof.Machine.Refuses (s : State) (code op : Byte) : State :=
  { s with err := true, errCode := code, errOp := op }

/-- The state after `Accept(d)` (40_common.md R132). -/
abbrev Sys2Proof.Machine.Accepts (s : State) (op : Byte) : State := { s with done := false, busy := true, curOp := op }

/-- It is the host's turn and CMD is not locked (40_common.md R130). -/
abbrev Sys2Proof.Machine.HostReady (s : State) : Prop := s.turn = .host ∧ s.busy = false ∧ s.err = false

/-- It is the engine's turn and command `i` is in flight (40_common.md R134). -/
abbrev Sys2Proof.Machine.InFlight (s : State) (i : Instr) : Prop :=
  s.turn = .engine ∧ s.busy = true ∧ s.curOp = opcode i

/-- Command `i`, completing on operands a, b, e with the other registers of `s`, leaves the integer `x` in RES. -/
def Sys2Proof.Machine.Leaves (i : Instr) (s : State) (a b e x : Nat) : Prop :=
  ∃ t, exec i { s with turn := .engine, busy := true, curOp := opcode i,
                       a := limbsOf s.nw a, b := limbsOf s.nw b, e := limbsOf s.nw e } = .next t ∧
    value t .res = x

/-- A word index the address map assigns to nothing in an instance of `nw` words (20_memory.md R71). -/
def Sys2Proof.Machine.Unassigned (nw : Nat) (w : WordIndex) : Prop :=
  (8 ≤ w.toNat ∧ w.toNat < 128) ∨ 896 ≤ w.toNat ∨ (128 ≤ w.toNat ∧ w.toNat < 896 ∧ nw ≤ w.toNat % 128)

/-- The events of one Fermat trial with base `a`: LOAD A, CMD FERMAT, the completion (50_host_software.md R236). -/
def Sys2Proof.Machine.trialEvents (nw a : Nat) : List Event :=
  loadEvents nw .a a ++ [cmdEvent .fermat, .engine]

/-! ## Encoding -/

/-- 30_encoding.md R105: the decoder accepts exactly the eight values of R103, each for its own command. -/
def Obligations.DecoderAcceptsExactlyTheEightValues : Prop :=
  (∀ (v : Word) (i : Instr), decode v = .ok i ↔ v = encode i) ∧
  encode .nop = 0x00000000#32 ∧ encode .setup = 0x00000001#32 ∧ encode .montmul = 0x00000002#32 ∧
  encode .tomont = 0x00000003#32 ∧ encode .frommont = 0x00000004#32 ∧ encode .modexp = 0x00000005#32 ∧
  encode .fermat = 0x00000006#32 ∧ encode .ftinit = 0x00000007#32

/-- Words written out from 30_encoding.md R103, numbered as the opcode table numbers them; 8 and a value with RSVD ≠ 0 are
none (R104). -/
def Obligations.TableWordsDecodeToTheirCommands : Prop :=
  decodeTableWord 32 0x00000000 = some .nop ∧ decodeTableWord 32 0x00000001 = some .setup ∧
  decodeTableWord 32 0x00000005 = some .modexp ∧ decodeTableWord 32 0x00000007 = some .ftinit ∧
  decodeTableWord 32 0x00000008 = none ∧ decodeTableWord 32 0x00000101 = none

/-! ## What a step runs -/

/-- A CMD write whose value decodes to `i` is `exec i` in the host's turn, after the event is taken from the list; and so
is a step of `withFetchWord`. The model's convention: log 1. -/
def Obligations.CommandWriteStepRunsItsCommand : Prop :=
  (∀ (s : State) (v : Word) (rest : List Event) (i : Instr), WritesCmd s v rest → decode v = .ok i →
    step s = exec i { s with turn := .host, inputs := rest, rdata := none }) ∧
  (∀ (s : State) (w : Nat) (i : Instr), decodeTableWord 32 w = some i →
    step (s.withFetchWord 32 w) = exec i { s with turn := .host, rdata := none })

/-- The engine's turn, scheduled or with nothing else left, is `exec i` of the command in flight, and no step of the block
where BUSY = 0. The model's convention: log 1. -/
def Obligations.EngineTurnRunsTheCommandInFlight : Prop :=
  ∀ s : State, s.inputs = [] ∨ s.inputs.head? = some .engine →
    (∀ i, s.busy = true → s.curOp = opcode i →
      step s = exec i { s with turn := .engine, inputs := s.inputs.tail, rdata := none }) ∧
    (s.busy = false → step s = .next { s with turn := .engine, inputs := s.inputs.tail, rdata := none })

/-! ## CMD writes: dropped, refused, accepted -/

/-- 30_encoding.md R104, 40_common.md R131, 60_exceptions.md R262 and R264: what a CMD write that starts nothing does, first
match wins. -/
def Obligations.CommandWriteIsDroppedOrRefusedInOrder : Prop :=
  ∀ (s : State) (v : Word) (rest : List Event), WritesCmd s v rest →
    (s.busy = true ∨ s.err = true → step s = .next { beginStep .host rest s with wign := true }) ∧
    (s.busy = false → s.err = false →
      (8 ≤ v.toNat → step s = .next (Refuses (beginStep .host rest s) 0x01#8 (v.extractLsb' 0 8))) ∧
      (v = 1#32 → value s .n % 2 = 0 → step s = .next (Refuses (beginStep .host rest s) 0x02#8 0x01#8)) ∧
      (v = 2#32 → s.modvalid = false → step s = .next (Refuses (beginStep .host rest s) 0x03#8 0x02#8)) ∧
      (v = 2#32 → s.modvalid = true → value s .n ≤ value s .a ∨ value s .n ≤ value s .b →
        step s = .next (Refuses (beginStep .host rest s) 0x04#8 0x02#8)) ∧
      (v = 3#32 → s.modvalid = false → step s = .next (Refuses (beginStep .host rest s) 0x03#8 0x03#8)) ∧
      (v = 4#32 → s.modvalid = false → step s = .next (Refuses (beginStep .host rest s) 0x03#8 0x04#8)) ∧
      (v = 5#32 → s.modvalid = false → step s = .next (Refuses (beginStep .host rest s) 0x03#8 0x05#8)) ∧
      (v = 6#32 → 4 ≤ value s .n → value s .n % 2 = 0 →
        step s = .next (Refuses (beginStep .host rest s) 0x02#8 0x06#8)) ∧
      (v = 6#32 → 4 ≤ value s .n → value s .n % 2 = 1 → s.modvalid = false →
        step s = .next (Refuses (beginStep .host rest s) 0x03#8 0x06#8)) ∧
      (v = 6#32 → 4 ≤ value s .n → value s .n % 2 = 1 → s.modvalid = true →
        value s .a = 0 ∨ value s .n ≤ value s .a →
        step s = .next (Refuses (beginStep .host rest s) 0x05#8 0x06#8)) ∧
      (∀ i, v = encode i → Admitted s i → step s = .next (Accepts (beginStep .host rest s) (opcode i))))

/-- 40_common.md R132: a command that passes the checks of its own rule is accepted, and nothing else changes; while it is in
flight the lock of 20_memory.md R77 holds. -/
def Obligations.AdmittedCommandIsAccepted : Prop :=
  (∀ (i : Instr) (s : State), HostReady s → Admitted s i →
    exec i s = .next { s with done := false, busy := true, curOp := opcode i }) ∧
  (∀ (s : State) (w : WordIndex) (v : Word) (rest : List Event), s.nw ≤ 128 → s.busy = true →
    s.inputs = .write w v :: rest →
    (w = 3#10 ∨ w = 6#10 ∨ ∃ r i, i < s.nw ∧ (r = .n ∨ r = .a ∨ r = .b ∨ r = .e) ∧ w = bigIndex r i) →
    step s = .next { beginStep .host rest s with wign := true })

/-! ## The commands, each with its own rule -/

/-- 40_common.md R138. -/
def Obligations.NopIsAcceptedAndChangesNothing : Prop :=
  ∀ s : State,
    (HostReady s → exec .nop s = .next (Accepts s 0x00#8)) ∧
    (s.turn = .host → s.busy = true ∨ s.err = true → exec .nop s = .next { s with wign := true }) ∧
    (InFlight s .nop → exec .nop s = .next { s with busy := false, done := true })

/-- 41_montgomery.md R152. -/
def Obligations.SetupComputesRRAndValidatesTheModulus : Prop :=
  ∀ s : State,
    (HostReady s → value s .n % 2 = 0 → exec .setup s = .next (Refuses s 0x02#8 0x01#8)) ∧
    (HostReady s → value s .n % 2 = 1 → exec .setup s = .next (Accepts s 0x01#8)) ∧
    (InFlight s .setup → value s .n % 2 = 1 →
      exec .setup s = .next { s with
        rr := limbsOf s.nw (2 ^ (2 * width s) % value s .n), modvalid := true, busy := false, done := true } ∧
      (Sized s → limbsValue (limbsOf s.nw (2 ^ (2 * width s) % value s .n)) = 2 ^ (2 * width s) % value s .n))

/-- 41_montgomery.md R155, with Rinv(N) as R12 defines it: the number below N whose product with the radix is 1 modulo N. -/
def Obligations.MontmulLeavesTheMontgomeryProduct : Prop :=
  ∀ s : State,
    (HostReady s → s.modvalid = false → exec .montmul s = .next (Refuses s 0x03#8 0x02#8)) ∧
    (HostReady s → s.modvalid = true → value s .n ≤ value s .a ∨ value s .n ≤ value s .b →
      exec .montmul s = .next (Refuses s 0x04#8 0x02#8)) ∧
    (HostReady s → s.modvalid = true → value s .a < value s .n → value s .b < value s .n →
      exec .montmul s = .next (Accepts s 0x02#8)) ∧
    (InFlight s .montmul → value s .n % 2 = 1 →
      ∃ rinv r, rinv < value s .n ∧ 2 ^ width s * rinv % value s .n = 1 % value s .n ∧
        r = value s .a * value s .b * rinv % value s .n ∧ r < value s .n ∧
        exec .montmul s = .next { s with res := limbsOf s.nw r, busy := false, done := true } ∧
        (Sized s → limbsValue (limbsOf s.nw r) = r))

/-- 41_montgomery.md R158. -/
def Obligations.TomontLeavesTheMontgomeryForm : Prop :=
  ∀ s : State,
    (HostReady s → s.modvalid = false → exec .tomont s = .next (Refuses s 0x03#8 0x03#8)) ∧
    (HostReady s → s.modvalid = true → exec .tomont s = .next (Accepts s 0x03#8)) ∧
    (InFlight s .tomont → value s .n % 2 = 1 →
      exec .tomont s = .next { s with
        res := limbsOf s.nw (value s .a * 2 ^ width s % value s .n), busy := false, done := true } ∧
      value s .a * 2 ^ width s % value s .n < value s .n ∧
      (Sized s → limbsValue (limbsOf s.nw (value s .a * 2 ^ width s % value s .n)) =
        value s .a * 2 ^ width s % value s .n))

/-- 41_montgomery.md R160. -/
def Obligations.FrommontLeavesThePlainForm : Prop :=
  ∀ s : State,
    (HostReady s → s.modvalid = false → exec .frommont s = .next (Refuses s 0x03#8 0x04#8)) ∧
    (HostReady s → s.modvalid = true → exec .frommont s = .next (Accepts s 0x04#8)) ∧
    (InFlight s .frommont → value s .n % 2 = 1 →
      ∃ rinv r, rinv < value s .n ∧ 2 ^ width s * rinv % value s .n = 1 % value s .n ∧
        r = value s .a * rinv % value s .n ∧ r < value s .n ∧
        exec .frommont s = .next { s with res := limbsOf s.nw r, busy := false, done := true } ∧
        (Sized s → limbsValue (limbsOf s.nw r) = r))

/-- 42_modexp.md R182. The last clause is its "an even modulus cannot reach MODEXP". -/
def Obligations.ModexpLeavesThePower : Prop :=
  ∀ s : State,
    (HostReady s → s.modvalid = false → exec .modexp s = .next (Refuses s 0x03#8 0x05#8)) ∧
    (HostReady s → s.modvalid = true → exec .modexp s = .next (Accepts s 0x05#8)) ∧
    (InFlight s .modexp → value s .n ≠ 0 →
      exec .modexp s = .next { s with
        res := limbsOf s.nw (value s .a ^ value s .e % value s .n), busy := false, done := true } ∧
      value s .a ^ value s .e % value s .n < value s .n ∧
      (Sized s → limbsValue (limbsOf s.nw (value s .a ^ value s .e % value s .n)) =
        value s .a ^ value s .e % value s .n)) ∧
    (Reachable s → s.busy = true → s.curOp = 0x05#8 → value s .n % 2 = 1)

/-- 43_fermat.md R205: the verdicts on N ≤ 1 and on N = 2 and N = 3; A, RES, FT_COUNT, MODVALID play no part. -/
def Obligations.FermatSmallModulusVerdict : Prop :=
  ∀ s : State,
    (HostReady s → value s .n ≤ 3 → exec .fermat s = .next (Accepts s 0x06#8)) ∧
    (InFlight s .fermat → value s .n ≤ 1 →
      exec .fermat s = .next { s with
        ftPass := false, ftComposite := true, ftPrime := false, busy := false, done := true }) ∧
    (InFlight s .fermat → value s .n = 2 ∨ value s .n = 3 →
      exec .fermat s = .next { s with ftPass := true, ftPrime := true, busy := false, done := true }) ∧
    (Reachable s → value s .n = 2 ∨ value s .n = 3 → s.ftComposite = false)

/-- 43_fermat.md R206: one trial, with the comparison made with the new count. -/
def Obligations.FermatTrialTestsThePower : Prop :=
  ∀ s : State, InFlight s .fermat → 4 ≤ value s .n →
    (value s .a ^ (value s .n - 1) % value s .n = 1 →
      exec .fermat s = .next { s with
        res := limbsOf s.nw 1
        ftPass := true
        ftCount := BitVec.ofNat 32 (min (s.ftCount.toNat + 1) (2 ^ 32 - 1))
        ftPrime := s.ftPrime ||
          (!s.ftComposite && decide (s.ftK.toNat ≤ min (s.ftCount.toNat + 1) (2 ^ 32 - 1)))
        busy := false
        done := true }) ∧
    (value s .a ^ (value s .n - 1) % value s .n ≠ 1 →
      exec .fermat s = .next { s with
        res := limbsOf s.nw (value s .a ^ (value s .n - 1) % value s .n)
        ftPass := false
        ftComposite := true
        ftPrime := false
        busy := false
        done := true })

/-- 43_fermat.md R208. -/
def Obligations.FtinitClearsTheFermatState : Prop :=
  ∀ s : State,
    (HostReady s → exec .ftinit s = .next (Accepts s 0x07#8)) ∧
    (InFlight s .ftinit → exec .ftinit s = .next { s with
      ftCount := 0#32, ftPass := false, ftComposite := false, ftPrime := false, busy := false, done := true })

/-! ## Frames -/

/-- What a completion leaves alone (40_common.md R134 and each command's rule): every location of the register space but
STATUS and the ones the command's rule names, and every register field but those. That the hidden CUR_OP keeps its value is the
model's choice (log 5), and that the list of events does is its convention (log 1). -/
def Obligations.CompletionFrame : Prop :=
  ∀ (i : Instr) (s t : State), s.turn = .engine → exec i s = .next t →
    (∀ w, locate s.nw w ≠ .status →
      ((∃ k, locate s.nw w = .big .rr k) → i ≠ .setup) →
      ((∃ k, locate s.nw w = .big .res k) →
        i ≠ .montmul ∧ i ≠ .tomont ∧ i ≠ .frommont ∧ i ≠ .modexp ∧ i ≠ .fermat) →
      (locate s.nw w = .ftCount → i ≠ .fermat ∧ i ≠ .ftinit) →
      readWord t w = readWord s w) ∧
    t.nw = s.nw ∧ t.n = s.n ∧ t.a = s.a ∧ t.b = s.b ∧ t.e = s.e ∧ t.ftK = s.ftK ∧ t.ieDone = s.ieDone ∧
    t.ieErr = s.ieErr ∧ t.err = s.err ∧ t.wign = s.wign ∧ t.errCode = s.errCode ∧ t.errOp = s.errOp ∧
    t.curOp = s.curOp ∧ t.inputs = s.inputs ∧
    (i ≠ .setup → t.rr = s.rr ∧ t.modvalid = s.modvalid) ∧
    (i ≠ .montmul → i ≠ .tomont → i ≠ .frommont → i ≠ .modexp → i ≠ .fermat → t.res = s.res) ∧
    (i = .fermat → value s .n ≤ 3 → t.res = s.res ∧ t.ftCount = s.ftCount) ∧
    (i ≠ .fermat → i ≠ .ftinit →
      t.ftPass = s.ftPass ∧ t.ftComposite = s.ftComposite ∧ t.ftPrime = s.ftPrime ∧ t.ftCount = s.ftCount)

/-- What a CMD write leaves alone, whatever its outcome (40_common.md R131 to R133, 60_exceptions.md R262): every location but
STATUS and ERRINFO, and every register field but BUSY, DONE, CUR_OP, WIGN, ERR, ERR_CODE and ERR_OP. -/
def Obligations.CommandWriteFrame : Prop :=
  ∀ (i : Instr) (s t : State), s.turn = .host → exec i s = .next t →
    (∀ w, locate s.nw w ≠ .status → locate s.nw w ≠ .errinfo → readWord t w = readWord s w) ∧
    t.nw = s.nw ∧ t.n = s.n ∧ t.a = s.a ∧ t.b = s.b ∧ t.e = s.e ∧ t.res = s.res ∧ t.rr = s.rr ∧
    t.ieDone = s.ieDone ∧ t.ieErr = s.ieErr ∧ t.modvalid = s.modvalid ∧ t.ftPass = s.ftPass ∧
    t.ftComposite = s.ftComposite ∧ t.ftPrime = s.ftPrime ∧ t.ftK = s.ftK ∧ t.ftCount = s.ftCount ∧
    t.inputs = s.inputs

/-! ## Corner cases -/

/-- 41_montgomery.md R153, cases 1, 3 and 4, at the completion of SETUP. -/
def Obligations.SetupCornerCases : Prop :=
  ∀ s : State, InFlight s .setup → Sized s → value s .n % 2 = 1 →
    ∃ t, exec .setup s = .next t ∧ t.modvalid = true ∧
      (value s .n = 1 → value t .rr = 0) ∧
      (value s .n = 2 ^ width s - 1 → value t .rr = 1) ∧
      (BlockInv s → s.modvalid = true → t.rr = s.rr)

/-- 41_montgomery.md R156, cases 1, 2 and 5, at the completion of MONTMUL: its last clause is the product with a Montgomery
form. -/
def Obligations.MontmulCornerCases : Prop :=
  ∀ s : State, InFlight s .montmul → Sized s → value s .n % 2 = 1 →
    ∃ t, exec .montmul s = .next t ∧
      (value s .a = 0 ∨ value s .b = 0 → value t .res = 0 ∧ zeroFlag t = true) ∧
      (value s .n = 1 → value t .res = 0) ∧
      (∀ x, value s .a = x * 2 ^ width s % value s .n → value t .res = x * value s .b % value s .n)

/-- 42_modexp.md R183, its nine cases. -/
def Obligations.ModexpCornerCases : Prop :=
  ∀ s : State, InFlight s .modexp → Sized s → value s .n % 2 = 1 →
    ∃ t, exec .modexp s = .next t ∧
      (value s .e = 0 → value t .res = 1 % value s .n) ∧
      (value s .a = 0 → 0 < value s .e → value t .res = 0) ∧
      (value s .a = 1 → value t .res = 1 % value s .n) ∧
      (value s .e = 1 → value t .res = value s .a % value s .n) ∧
      value t .res = (value s .a % value s .n) ^ value s .e % value s .n ∧
      (value s .n = 1 → value t .res = 0) ∧
      (value s .a = value s .n - 1 → 1 < value s .n →
        value t .res = if value s .e % 2 = 0 then 1 else value s .n - 1) ∧
      (value s .e = 2 ^ width s - 1 → value t .res = value s .a ^ (2 ^ width s - 1) % value s .n) ∧
      value t .res < value s .n

/-- 43_fermat.md R207, cases 1, 2, 6, 9, 10 and 11: which trials pass whatever N is, which never pass, and what a verdict
already reached becomes. -/
def Obligations.FermatTrialCornerCases : Prop :=
  ∀ s : State, InFlight s .fermat → Sized s → 5 ≤ value s .n → value s .n % 2 = 1 →
    ∃ t, exec .fermat s = .next t ∧
      (value s .a = 1 → t.ftPass = true) ∧
      (value s .a = value s .n - 1 → t.ftPass = true) ∧
      (Nat.gcd (value s .a) (value s .n) ≠ 1 → t.ftPass = false ∧ t.ftComposite = true ∧ t.ftPrime = false) ∧
      (s.ftCount = 0xFFFFFFFF#32 → t.ftCount = 0xFFFFFFFF#32) ∧
      (s.ftPrime = true → t.ftPrime = t.ftPass) ∧
      (s.ftComposite = true → s.ftPrime = false → t.ftComposite = true ∧ t.ftPrime = false)

/-! ## The arithmetic -/

/-- 41_montgomery.md R150: the definition and its five consequences. -/
def Obligations.MontgomeryProductFacts : Prop :=
  ∀ (w n : Nat), n % 2 = 1 →
    (∀ a b, ∃ rinv, rinv < n ∧ 2 ^ w * rinv % n = 1 % n ∧ montMul w a b n = a * b * rinv % n) ∧
    (∀ x y, montMul w (x * 2 ^ w % n) (y * 2 ^ w % n) n = x * y * 2 ^ w % n) ∧
    (∀ x, montMul w x (2 ^ w * 2 ^ w % n) n = x * 2 ^ w % n) ∧
    (∀ x, montMul w (x * 2 ^ w % n) 1 n = x % n) ∧
    (∀ a b, montMul w a b n = montMul w b a n) ∧
    (n = 1 → ∀ a b, montMul w a b n = 0)

/-- 41_montgomery.md R151: the bit-serial loop returns the Montgomery product, its accumulator staying below 2·n. -/
def Obligations.SerialMultiplierReturnsTheMontgomeryProduct : Prop :=
  ∀ (w a b n : Nat), n % 2 = 1 → a < 2 ^ w → b < n →
    (∀ k, k ≤ w → serialAcc a b n k < 2 * n) ∧
    serialMontMul w a b n = montMul w a b n ∧ serialMontMul w a b n < n

/-- 42_modexp.md R181: the square-and-multiply loop, every product made by the loop of R151, returns the power. -/
def Obligations.LadderReturnsThePower : Prop :=
  ∀ (w a e n : Nat), n % 2 = 1 → n < 2 ^ w → a < 2 ^ w → e < 2 ^ w →
    ladderModExp w a e n = a ^ e % n ∧ ladderModExp w a e n = modExp a e n

/-- 41_montgomery.md R162: the seven laws of the commands. -/
def Obligations.MontgomeryCommandLaws : Prop :=
  ∀ s : State, Sized s → value s .n % 2 = 1 → ∀ x y, x < 2 ^ width s → y < 2 ^ width s →
    (∃ f, Leaves .tomont s x 0 0 f ∧ Leaves .frommont s f 0 0 (x % value s .n)) ∧
    (∃ f, Leaves .frommont s x 0 0 f ∧ Leaves .tomont s f 0 0 (x % value s .n)) ∧
    (x < value s .n → y < value s .n →
      ∃ f g p, Leaves .tomont s x 0 0 f ∧ Leaves .tomont s y 0 0 g ∧ Leaves .montmul s f g 0 p ∧
        Leaves .frommont s p 0 0 (x * y % value s .n)) ∧
    (x < value s .n → y < value s .n →
      ∃ f, Leaves .tomont s x 0 0 f ∧ Leaves .montmul s f y 0 (x * y % value s .n)) ∧
    (∃ p, Leaves .montmul s x y 0 p ∧ Leaves .montmul s y x 0 p) ∧
    (Leaves .tomont s 1 0 0 (2 ^ width s % value s .n) ∧
      (x < value s .n → Leaves .montmul s (2 ^ width s % value s .n) x 0 x)) ∧
    (s.modvalid = true → BlockInv s → Leaves .tomont s (2 ^ width s % value s .n) 0 0 (value s .rr))

/-- 42_modexp.md R185: the four further laws of MODEXP. -/
def Obligations.ModexpLaws : Prop :=
  ∀ s : State, Sized s → value s .n % 2 = 1 → ∀ a e1 e2, a < 2 ^ width s →
    (e1 < 2 ^ width s → ∃ x, Leaves .modexp s a 0 e1 x ∧ Leaves .modexp s (a % value s .n) 0 e1 x) ∧
    (e1 + e2 < 2 ^ width s → ∃ x y, Leaves .modexp s a 0 e1 x ∧ Leaves .modexp s a 0 e2 y ∧
      Leaves .modexp s a 0 (e1 + e2) (x * y % value s .n)) ∧
    (e1 < 2 ^ width s → e2 < 2 ^ width s → e1 * e2 < 2 ^ width s → ∃ x y, Leaves .modexp s a 0 e1 x ∧
      Leaves .modexp s x 0 e2 y ∧ Leaves .modexp s a 0 (e1 * e2) y) ∧
    (e1 < 2 ^ width s → ∀ b res k c p q, ∃ x, Leaves .modexp s a 0 e1 x ∧
      Leaves .modexp { s with res := res, ftCount := k, ftComposite := c, ftPass := p, ftPrime := q } a b e1 x)

/-- 42_modexp.md R184: the round trip, under the condition of 90_conflicts.md C4, with the true totient. -/
def Obligations.ModexpRoundTrip : Prop :=
  ∀ s : State, Sized s → value s .n % 2 = 1 → ∀ e d m, e < 2 ^ width s → d < 2 ^ width s →
    e * d % Nat.totient (value s .n) = 1 → m < value s .n → Nat.gcd m (value s .n) = 1 →
    ∃ c, Leaves .modexp s m 0 e c ∧ Leaves .modexp s c 0 d m

/-- 43_fermat.md R210: a prime N ≥ 5 passes every trial, so a witness proves N composite; a pass proves nothing: every
base co-prime to the composite 561 passes. -/
def Obligations.FermatVerdictIsExactOnlyForComposite : Prop :=
  ∀ s : State, InFlight s .fermat → 5 ≤ value s .n → 1 ≤ value s .a → value s .a < value s .n →
    ∃ t, exec .fermat s = .next t ∧
      (Nat.Prime (value s .n) → t.ftPass = true ∧ t.ftComposite = s.ftComposite) ∧
      (t.ftPass = false → t.ftComposite = true ∧ ¬Nat.Prime (value s .n)) ∧
      (value s .n = 561 → Nat.gcd (value s .a) 561 = 1 → t.ftPass = true)

/-! ## Runs of the host's accesses -/

/-- 30_encoding.md R109, `LOAD X, v`: the NW writes leave exactly v in X and every other operand alone. -/
def Obligations.LoadWritesTheWholeRegister : Prop :=
  ∀ (s : State) (v : Nat), Sized s → s.busy = false → v < 2 ^ width s →
    (∃ t, runEvents (loadEvents s.nw .n v) s = .next t ∧ value t .n = v ∧ t.modvalid = false ∧ value t .rr = 0 ∧
      t.ftCount = 0#32 ∧ t.ftPass = false ∧ t.ftComposite = false ∧ t.ftPrime = false ∧
      t.a = s.a ∧ t.b = s.b ∧ t.e = s.e ∧ t.res = s.res ∧ t.wign = s.wign) ∧
    (∃ t, runEvents (loadEvents s.nw .a v) s = .next t ∧ value t .a = v ∧
      { t with a := s.a, turn := s.turn, inputs := s.inputs, rdata := s.rdata } = s) ∧
    (∃ t, runEvents (loadEvents s.nw .b v) s = .next t ∧ value t .b = v ∧
      { t with b := s.b, turn := s.turn, inputs := s.inputs, rdata := s.rdata } = s) ∧
    (∃ t, runEvents (loadEvents s.nw .e v) s = .next t ∧ value t .e = v ∧
      { t with e := s.e, turn := s.turn, inputs := s.inputs, rdata := s.rdata } = s)

/-- 42_modexp.md R186: after one SETUP, LOAD A, LOAD E, CMD MODEXP and the completion leave m^e mod n in RES, DONE = 1,
BUSY = 0, and the modulus, its SETUP and the exponent in place. -/
def Obligations.EncryptSequenceComputesThePower : Prop :=
  ∀ (s : State) (m e : Nat), BlockInv s → s.busy = false → s.err = false → s.modvalid = true →
    m < 2 ^ width s → e < 2 ^ width s →
    ∃ t, runEvents (loadEvents s.nw .a m ++ loadEvents s.nw .e e ++ [cmdEvent .modexp, .engine]) s = .next t ∧
      value t .res = m ^ e % value s .n ∧ t.done = true ∧ t.busy = false ∧ t.err = false ∧
      t.n = s.n ∧ t.rr = s.rr ∧ t.modvalid = true ∧ value t .e = e

/-- 43_fermat.md R209: the block's verdicts over a whole run of trials are those of the document's algorithm on the same
bases. -/
def Obligations.FermatRunAgreesWithTheDocument : Prop :=
  ∀ (s : State) (n : Nat), BlockInv s → s.busy = false → s.err = false → n < 2 ^ width s →
    (n ≤ 1 → ∃ t, runEvents (loadEvents s.nw .n n ++ [cmdEvent .fermat, .engine]) s = .next t ∧
      t.ftComposite = true ∧ t.ftPrime = false) ∧
    (n = 2 ∨ n = 3 → ∃ t, runEvents (loadEvents s.nw .n n ++ [cmdEvent .fermat, .engine]) s = .next t ∧
      t.ftPrime = true ∧ t.ftComposite = false) ∧
    (5 ≤ n → n % 2 = 1 → ∀ bases : List Nat, (∀ a ∈ bases, 1 ≤ a ∧ a < n) → bases.length < 2 ^ 32 →
      ∃ t, runEvents (loadEvents s.nw .n n ++ [cmdEvent .setup, .engine] ++
          bases.flatMap (trialEvents s.nw)) s = .next t ∧
        (t.ftComposite = true ↔ ∃ a ∈ bases, a ^ (n - 1) % n ≠ 1) ∧
        (t.ftPrime = true ↔ bases ≠ [] ∧ s.ftK.toNat ≤ bases.length ∧ ∀ a ∈ bases, a ^ (n - 1) % n = 1) ∧
        t.ftCount.toNat = (bases.filter (fun a => a ^ (n - 1) % n = 1)).length) ∧
    (4 ≤ n → n % 2 = 0 → ∃ t, runEvents (loadEvents s.nw .n n ++ [cmdEvent .fermat]) s = .next t ∧
      t.err = true ∧ t.errCode = 0x02#8 ∧ t.ftComposite = false ∧ t.ftPrime = false)

/-- 40_common.md R134, 20_memory.md R77: whatever the host does while a command is in flight, the completion writes the same
values. -/
def Obligations.AccessesInFlightDoNotChangeTheResult : Prop :=
  ∀ (s : State) (i : Instr) (es : List Event), s.busy = true → s.curOp = opcode i →
    (∀ ev ∈ es, isAccess ev = true) →
    ∃ t u, runEvents (es ++ [.engine]) s = .next t ∧ runEvents [.engine] s = .next u ∧
      t.res = u.res ∧ t.rr = u.rr ∧ t.modvalid = u.modvalid ∧ t.ftPass = u.ftPass ∧
      t.ftComposite = u.ftComposite ∧ t.ftPrime = u.ftPrime ∧ t.ftCount = u.ftCount ∧ t.ftK = u.ftK ∧
      t.n = u.n ∧ t.a = u.a ∧ t.b = u.b ∧ t.e = u.e ∧ t.busy = u.busy ∧ t.done = u.done

/-- 30_encoding.md R110: reads can be left out of a run without any difference but the value on rdata. -/
def Obligations.DiscardedReadsChangeNothing : Prop :=
  ∀ (s t : State) (es : List Event), runEvents es s = .next t →
    ∃ u, runEvents (es.filter (fun ev => match ev with | .read _ => false | _ => true)) s = .next u ∧
      { u with turn := t.turn, rdata := t.rdata } = t

/-- 10_state.md R29: CUR_OP has no consequence while BUSY = 0; two idle states that differ in it alone go on alike. -/
def Obligations.CurOpIsHiddenWhileIdle : Prop :=
  ∀ s t u : State, s.busy = false → SameButCurOp s t → step s = .next u →
    ∃ w, step t = .next w ∧ SameButCurOp u w ∧ u.rdata = w.rdata ∧ (u.busy = true → u.curOp = w.curOp)

/-! ## Host reads -/

/-- 20_memory.md R74: a read puts the location's content on rdata and changes nothing else. -/
def Obligations.ReadHasNoSideEffect : Prop :=
  ∀ (s : State) (w : WordIndex) (rest : List Event), s.inputs = .read w :: rest →
    step s = .next { s with turn := .host, inputs := rest, rdata := some (readWord s w) }

/-- 20_memory.md R71, R72, 10_state.md R33, R34 and R46: the content of every address but STATUS and ERRINFO (words 4 and 5),
one clause for each kind; those two are `StatusAndErrinfoLayout`. -/
def Obligations.AddressMapContents : Prop :=
  ∀ s : State, s.nw ≤ 128 →
    readWord s 0#10 = 0x46454D31#32 ∧
    (readWord s 1#10).toNat = s.nw ∧
    ((readWord s 2#10)[0] = s.ieDone ∧ (readWord s 2#10)[1] = s.ieErr ∧
      ∀ k, 2 ≤ k → (readWord s 2#10).getLsbD k = false) ∧
    readWord s 3#10 = 0#32 ∧
    readWord s 6#10 = s.ftK ∧
    readWord s 7#10 = s.ftCount ∧
    (∀ i, i < s.nw → readWord s (BitVec.ofNat 10 (0x200 / 4 + i)) = wordAt s.n i) ∧
    (∀ i, i < s.nw → readWord s (BitVec.ofNat 10 (0x400 / 4 + i)) = wordAt s.a i) ∧
    (∀ i, i < s.nw → readWord s (BitVec.ofNat 10 (0x600 / 4 + i)) = wordAt s.b i) ∧
    (∀ i, i < s.nw → readWord s (BitVec.ofNat 10 (0x800 / 4 + i)) = wordAt s.e i) ∧
    (∀ i, i < s.nw → readWord s (BitVec.ofNat 10 (0xA00 / 4 + i)) = wordAt s.res i) ∧
    (∀ i, i < s.nw → readWord s (BitVec.ofNat 10 (0xC00 / 4 + i)) = wordAt s.rr i) ∧
    (∀ w, Unassigned s.nw w → readWord s w = 0#32)

/-- 00_scope.md R9, 20_memory.md R76: the integer of a big register is the sum of its words as read, word i times 2^(32·i). -/
def Obligations.BigRegisterIsTheSumOfItsWords : Prop :=
  ∀ (s : State) (r : BigName), Sized s →
    value s r = ((List.range s.nw).map (fun i => (readWord s (bigIndex r i)).toNat * 2 ^ (32 * i))).sum

/-- 10_state.md R35 (and R41, R43): STATUS as read, bit by bit, and as written; ERRINFO as read. -/
def Obligations.StatusAndErrinfoLayout : Prop :=
  ∀ s : State,
    (readWord s 4#10)[0] = s.busy ∧ (readWord s 4#10)[1] = s.done ∧ (readWord s 4#10)[2] = s.err ∧
    (readWord s 4#10)[3] = s.wign ∧ (readWord s 4#10)[4] = s.modvalid ∧
    ((readWord s 4#10)[8] = true ↔ value s .res = 0) ∧ ((readWord s 4#10)[9] = true ↔ value s .res = 1) ∧
    (readWord s 4#10)[16] = s.ftPass ∧ (readWord s 4#10)[17] = s.ftComposite ∧ (readWord s 4#10)[18] = s.ftPrime ∧
    (∀ k, k ∈ [5, 6, 7, 10, 11, 12, 13, 14, 15] ∨ 19 ≤ k → (readWord s 4#10).getLsbD k = false) ∧
    (readWord s 5#10).extractLsb' 0 8 = s.errCode ∧ (readWord s 5#10).extractLsb' 8 8 = s.errOp ∧
    (readWord s 5#10).extractLsb' 16 16 = 0#16 ∧
    (∀ (v : Word) (rest : List Event), s.inputs = .write 4#10 v :: rest →
      step s = .next { beginStep .host rest s with
        done := if v[1] then false else s.done
        err := if v[2] then false else s.err
        errCode := if v[2] then 0#8 else s.errCode
        errOp := if v[2] then 0#8 else s.errOp
        wign := if v[3] then false else s.wign })

/-- 10_state.md R33: CTRL as read and as written in every state, BUSY = 1 among them, and what its two bits do to the
interrupt output. -/
def Obligations.CtrlLayout : Prop :=
  ∀ s : State,
    readWord s 2#10 = (BitVec.ofBool s.ieErr ++ BitVec.ofBool s.ieDone).setWidth 32 ∧
    (s.ieDone = true → s.done = true → irq s = true) ∧ (s.ieErr = true → s.err = true → irq s = true) ∧
    (∀ (v : Word) (rest : List Event), s.inputs = .write 2#10 v :: rest →
      ∃ t, step s = .next t ∧ t = { beginStep .host rest s with ieDone := v[0], ieErr := v[1] } ∧
        readWord t 2#10 = v &&& 0x00000003#32)

/-! ## Host writes -/

/-- 20_memory.md R75, R77 and R78: a write by the kind of location. A CMD write where CMD is not locked is refused for a value
that is no command and is otherwise the command's own step, of which `CommandWriteIsDroppedOrRefusedInOrder` says more. -/
def Obligations.HostWriteByLocation : Prop :=
  ∀ (s : State) (w : WordIndex) (v : Word) (rest : List Event), s.nw ≤ 128 → s.inputs = .write w v :: rest →
    (w = 2#10 → step s = .next { beginStep .host rest s with ieDone := v[0], ieErr := v[1] }) ∧
    (w = 4#10 → step s = .next { beginStep .host rest s with
      done := s.done && !v[1]
      err := s.err && !v[2]
      errCode := if v[2] then 0#8 else s.errCode
      errOp := if v[2] then 0#8 else s.errOp
      wign := s.wign && !v[3] }) ∧
    (w = 3#10 → s.busy = true ∨ s.err = true → step s = .next { beginStep .host rest s with wign := true }) ∧
    (w = 3#10 → s.busy = false → s.err = false → 8 ≤ v.toNat →
      step s = .next (Refuses (beginStep .host rest s) 0x01#8 (v.extractLsb' 0 8))) ∧
    (∀ i, w = 3#10 → v = encode i → step s = exec i (beginStep .host rest s)) ∧
    (w = 6#10 → step s = .next (if s.busy then { beginStep .host rest s with wign := true }
      else { beginStep .host rest s with ftK := v })) ∧
    (∀ r i, i < s.nw → r = .n ∨ r = .a ∨ r = .b ∨ r = .e → w = bigIndex r i → s.busy = true →
      step s = .next { beginStep .host rest s with wign := true }) ∧
    (∀ i, i < s.nw → w = bigIndex .n i → s.busy = false →
      step s = .next { beginStep .host rest s with
        n := s.n.set i v, modvalid := false, rr := zeroLimbs s.nw, ftCount := 0#32, ftPass := false,
        ftComposite := false, ftPrime := false }) ∧
    (∀ i, i < s.nw → w = bigIndex .a i → s.busy = false →
      step s = .next { beginStep .host rest s with a := s.a.set i v }) ∧
    (∀ i, i < s.nw → w = bigIndex .b i → s.busy = false →
      step s = .next { beginStep .host rest s with b := s.b.set i v }) ∧
    (∀ i, i < s.nw → w = bigIndex .e i → s.busy = false →
      step s = .next { beginStep .host rest s with e := s.e.set i v }) ∧
    (w = 0#10 ∨ w = 1#10 ∨ w = 5#10 ∨ w = 7#10 ∨ Unassigned s.nw w → step s = .next (beginStep .host rest s)) ∧
    (∀ r i, i < s.nw → r = .res ∨ r = .rr → w = bigIndex r i → step s = .next (beginStep .host rest s))

/-- 10_state.md R22: a performed write to a word of N, as seen through the address map: the word, and only that word of N,
and the three side effects. -/
def Obligations.ModulusWriteInvalidates : Prop :=
  ∀ (s : State) (i : Nat) (v : Word) (rest : List Event), Sized s → s.busy = false → i < s.nw →
    s.inputs = .write (bigIndex .n i) v :: rest →
    ∃ t, step s = .next t ∧ readWord t (bigIndex .n i) = v ∧
      (∀ j, j < s.nw → j ≠ i → readWord t (bigIndex .n j) = readWord s (bigIndex .n j)) ∧
      t.modvalid = false ∧ value t .rr = 0 ∧
      t.ftCount = 0#32 ∧ t.ftPass = false ∧ t.ftComposite = false ∧ t.ftPrime = false ∧
      (∀ r k, k < s.nw → r ≠ .n → r ≠ .rr → readWord t (bigIndex r k) = readWord s (bigIndex r k))

/-! ## Rules over every step: what changes a register, and nothing else does -/

/-- 10_state.md R36: BUSY rises at an acceptance only, and falls at a completion or at reset only. -/
def Obligations.BusyChangesOnlyAsStated : Prop :=
  ∀ s t : State, step s = .next t →
    (s.busy = false → t.busy = true → ∃ i rest, WritesCmd s (encode i) rest ∧ s.err = false ∧ Admitted s i) ∧
    (s.busy = true → t.busy = false →
      s.inputs = [] ∨ s.inputs.head? = some .engine ∨ s.inputs.head? = some .reset)

/-- 10_state.md R37: DONE is set by every completion; cleared by an acceptance, a write of 1 to STATUS bit 1, or reset. -/
def Obligations.DoneChangesOnlyAsStated : Prop :=
  ∀ s t : State, step s = .next t →
    ((s.inputs = [] ∨ s.inputs.head? = some .engine) → s.busy = true → t.done = true) ∧
    (s.done = false → t.done = true → (s.inputs = [] ∨ s.inputs.head? = some .engine) ∧ s.busy = true) ∧
    (s.done = true → t.done = false →
      (∃ i rest, WritesCmd s (encode i) rest ∧ s.busy = false ∧ s.err = false ∧ Admitted s i) ∨
      (∃ v rest, s.inputs = .write 4#10 v :: rest ∧ v[1] = true) ∨ s.inputs.head? = some .reset)

/-- 10_state.md R38: ERR rises at a refused CMD write only; it falls at a write of 1 to STATUS bit 2, with ERRINFO, or at
reset only; ERRINFO stays while ERR stays. -/
def Obligations.ErrChangesOnlyAsStated : Prop :=
  ∀ s t : State, step s = .next t →
    (s.err = false → t.err = true → ∃ v rest, WritesCmd s v rest ∧ s.busy = false ∧
      (8 ≤ v.toNat ∨ ∃ i, v = encode i ∧ ¬Admitted s i)) ∧
    (s.err = true → t.err = false → t.errCode = 0#8 ∧ t.errOp = 0#8 ∧
      ((∃ v rest, s.inputs = .write 4#10 v :: rest ∧ v[2] = true) ∨ s.inputs.head? = some .reset)) ∧
    (s.err = true → t.err = true → t.errCode = s.errCode ∧ t.errOp = s.errOp)

/-- 10_state.md R39: WIGN rises where a write is dropped by a lock only; it falls at a write of 1 to STATUS bit 3 or at
reset only. -/
def Obligations.WignChangesOnlyAsStated : Prop :=
  ∀ s t : State, step s = .next t →
    (s.wign = false → t.wign = true → ∃ w v rest, s.inputs = .write w v :: rest ∧
      ((w = 3#10 ∧ (s.busy = true ∨ s.err = true)) ∨
       (s.busy = true ∧ (w = 6#10 ∨
         ∃ r i, i < s.nw ∧ (r = .n ∨ r = .a ∨ r = .b ∨ r = .e) ∧ w = bigIndex r i)))) ∧
    (s.wign = true → t.wign = false →
      (∃ v rest, s.inputs = .write 4#10 v :: rest ∧ v[3] = true) ∨ s.inputs.head? = some .reset)

/-- 10_state.md R40: MODVALID rises at the completion of SETUP only; it falls at a performed write to a word of N or at
reset only. -/
def Obligations.ModvalidChangesOnlyAsStated : Prop :=
  ∀ s t : State, step s = .next t →
    (s.modvalid = false → t.modvalid = true →
      (s.inputs = [] ∨ s.inputs.head? = some .engine) ∧ s.busy = true ∧ s.curOp = 0x01#8) ∧
    (s.modvalid = true → t.modvalid = false →
      (∃ i v rest, i < s.nw ∧ s.inputs = .write (bigIndex .n i) v :: rest ∧ s.busy = false) ∨
      s.inputs.head? = some .reset)

/-- 10_state.md R42 (its first sentence) and R45: the Fermat bookkeeping changes at a completion of FERMAT or FTINIT, at a
performed write to a word of N, or at reset, and nowhere else; the last two clear it. -/
def Obligations.FermatStateChangesOnlyAsStated : Prop :=
  ∀ s t : State, step s = .next t →
    (t.ftPass = s.ftPass ∧ t.ftComposite = s.ftComposite ∧ t.ftPrime = s.ftPrime ∧ t.ftCount = s.ftCount) ∨
    ((s.inputs = [] ∨ s.inputs.head? = some .engine) ∧ s.busy = true ∧ (s.curOp = 0x06#8 ∨ s.curOp = 0x07#8)) ∨
    (((∃ i v rest, i < s.nw ∧ s.inputs = .write (bigIndex .n i) v :: rest ∧ s.busy = false) ∨
        s.inputs.head? = some .reset) ∧
      t.ftPass = false ∧ t.ftComposite = false ∧ t.ftPrime = false ∧ t.ftCount = 0#32)

/-- 10_state.md R21 and R26: the engine never writes N, A, B or E; the host never writes RES, and changes RR only by zeroing
it with a write to N; RES changes only at the completion of a command that has a result, and then lies below N. -/
def Obligations.RegistersAreWrittenByTheirAgentOnly : Prop :=
  ∀ s t : State, BlockInv s → step s = .next t →
    ((s.inputs = [] ∨ s.inputs.head? = some .engine) → t.n = s.n ∧ t.a = s.a ∧ t.b = s.b ∧ t.e = s.e ∧ t.ftK = s.ftK) ∧
    ((∃ w v rest, s.inputs = .write w v :: rest) → t.res = s.res ∧
      (t.rr = s.rr ∨ (value t .rr = 0 ∧ ∃ i v rest, i < s.nw ∧ s.inputs = .write (bigIndex .n i) v :: rest))) ∧
    (t.res ≠ s.res → s.inputs.head? ≠ some .reset →
      (s.inputs = [] ∨ s.inputs.head? = some .engine) ∧ s.busy = true ∧
      (s.curOp = 0x02#8 ∨ s.curOp = 0x03#8 ∨ s.curOp = 0x04#8 ∨ s.curOp = 0x05#8 ∨ s.curOp = 0x06#8) ∧
      value t .res < value s .n)

/-- 60_exceptions.md R270: the interrupt output, and what an acceptance, a completion, a refusal and an acknowledge do to it. -/
def Obligations.InterruptOutputFollowsTheFlags : Prop :=
  (∀ s : State, irq s = true ↔ (s.done = true ∧ s.ieDone = true) ∨ (s.err = true ∧ s.ieErr = true)) ∧
  (∀ (i : Instr) (s t : State), InFlight s i → exec i s = .next t →
    irq t = (s.ieDone || (s.err && s.ieErr))) ∧
  (∀ (i : Instr) (s t : State), HostReady s → exec i s = .next t →
    irq t = if t.err then (s.done && s.ieDone) || s.ieErr else false) ∧
  (∀ (s : State) (v : Word) (rest : List Event), s.inputs = .write 4#10 v :: rest → v[1] = true → v[2] = true →
    ∃ t, step s = .next t ∧ irq t = false)

/-! ## Reset -/

/-- 10_state.md R50: the reset state of every instance, as held and as read; the reference instance is the machine's reset. -/
def Obligations.ResetStateValues : Prop :=
  State.reset = resetOf 64 ∧
  ∀ nw, nw ≤ 128 →
    (resetOf nw).nw = nw ∧ (∀ r, value (resetOf nw) r = 0 ∧ (bigReg (resetOf nw) r).length = nw) ∧
    (resetOf nw).ieDone = false ∧ (resetOf nw).ieErr = false ∧ (resetOf nw).busy = false ∧
    (resetOf nw).done = false ∧ (resetOf nw).err = false ∧ (resetOf nw).wign = false ∧
    (resetOf nw).modvalid = false ∧ (resetOf nw).ftPass = false ∧ (resetOf nw).ftComposite = false ∧
    (resetOf nw).ftPrime = false ∧ (resetOf nw).errCode = 0#8 ∧ (resetOf nw).errOp = 0#8 ∧
    (resetOf nw).ftK = 128#32 ∧ (resetOf nw).ftCount = 0#32 ∧ (resetOf nw).curOp = 0#8 ∧
    readWord (resetOf nw) 0#10 = 0x46454D31#32 ∧ (readWord (resetOf nw) 1#10).toNat = nw ∧
    readWord (resetOf nw) 2#10 = 0#32 ∧ readWord (resetOf nw) 4#10 = 0x00000100#32 ∧
    readWord (resetOf nw) 5#10 = 0#32 ∧ irq (resetOf nw) = false

/-- 70_reset_and_hazards.md R300, R302: reset is one step from any state to the reset state; a command in flight is abandoned,
DONE stays 0 and none of its results is written; no other step ends a command in flight without its DONE. The instance's size
and the accesses still to come are kept, which is the model's choice (log 2, log 6). -/
def Obligations.ResetAbandonsTheCommand : Prop :=
  (∀ (s : State) (rest : List Event), s.inputs = .reset :: rest →
    step s = .next { resetOf s.nw with inputs := rest } ∧
    (∀ t, step s = .next t → t.busy = false ∧ t.done = false ∧ (∀ r, value t r = 0))) ∧
  (∀ s t : State, s.busy = true → s.inputs.head? ≠ some .reset → step s = .next t →
    t.busy = true ∨ t.done = true)

/-! ## Invariants -/

/-- The invariant holds in the reset state of every instance, whatever happens next. The model's own strengthening of
10_state.md R47. -/
def Obligations.ResetStateMeetsTheInvariant : Prop :=
  (∀ nw es, sizeWellFormed nw = true → BlockInv (withEvents es (resetOf nw))) ∧ BlockInv State.reset

/-- Every step keeps the invariant, from every state that meets it. The model's own strengthening of 10_state.md R47. -/
def Obligations.EveryStepKeepsTheInvariant : Prop :=
  ∀ s t : State, BlockInv s → step s = .next t → BlockInv t

/-- 10_state.md R47, its eight items, in every state a run from reset reaches. -/
def Obligations.ReachableStatesKeepR47 : Prop :=
  ∀ s : State, Reachable s →
    ¬(s.busy = true ∧ s.err = true) ∧
    ¬(s.busy = true ∧ s.done = true) ∧
    (s.modvalid = true → value s .n % 2 = 1 ∧ value s .rr = 2 ^ width s * 2 ^ width s % value s .n) ∧
    (s.modvalid = false → value s .rr = 0) ∧
    ((s.err = false ↔ s.errCode = 0#8) ∧ (s.err = false → s.errOp = 0#8)) ∧
    ¬(s.ftPrime = true ∧ s.ftComposite = true) ∧
    (s.ftPrime = true → s.ftPass = true) ∧
    ¬(zeroFlag s = true ∧ oneFlag s = true)

/-- No reachable state stops: every step of a state that meets the invariant, and of every reachable state, goes on
(40_common.md R134: an accepted command always completes). -/
def Obligations.NoReachableStateStops : Prop :=
  (∀ s : State, BlockInv s → Completes s) ∧ (∀ s : State, Reachable s → Completes s)

/-- 40_common.md R135, 00_scope.md R15: from every state that meets the invariant, once the accesses still to come are done
and the engine has had one turn, no command is in flight; a command in flight has its DONE where the host makes no further
access. That the completion is taken once no event is left is the model's choice of when (log 1). -/
def Obligations.AcceptedCommandTerminates : Prop :=
  ∀ s : State, BlockInv s →
    (∃ t, Sys2Proof.core.run (s.inputs.length + 1) s = .next t ∧ t.busy = false ∧ t.inputs = []) ∧
    (s.busy = true → s.inputs = [] → ∃ t, step s = .next t ∧ t.busy = false ∧ t.done = true)
end

