-- ==== Sys2Proof/Laws/Limbs.lean ====
section
/-! SUPPORT. The integer of a list of words and the words of an integer are inverse to each other. -/

namespace Sys2Proof.Machine

@[simp] theorem limbsValue_nil : limbsValue [] = 0 := rfl

theorem limbsValue_cons (w : Word) (ws : Limbs) :
    limbsValue (w :: ws) = w.toNat + 2 ^ 32 * limbsValue ws := rfl

theorem two_pow_width_succ (k : Nat) : 2 ^ (32 * (k + 1)) = 2 ^ 32 * 2 ^ (32 * k) := by
  rw [← pow_add]; congr 1; omega

/-- A register of `k` words holds integers below 2^(32·k) only (00_scope.md R10). -/
theorem limbsValue_lt (ws : Limbs) : limbsValue ws < 2 ^ (32 * ws.length) := by
  induction ws with
  | nil => simp
  | cons w ws ih =>
    have hw : w.toNat < 2 ^ 32 := w.isLt
    rw [limbsValue_cons, List.length_cons, two_pow_width_succ]
    nlinarith

@[simp] theorem limbsOf_length (k v : Nat) : (limbsOf k v).length = k := by
  induction k generalizing v with
  | zero => rfl
  | succ k ih => simp [limbsOf, ih]

/-- Writing an integer to a register and reading the register back gives it modulo 2^W. -/
theorem limbsValue_limbsOf (k v : Nat) : limbsValue (limbsOf k v) = v % 2 ^ (32 * k) := by
  induction k generalizing v with
  | zero => simp [limbsOf, Nat.mod_one]
  | succ k ih =>
    rw [limbsOf, limbsValue_cons, ih, BitVec.toNat_ofNat, two_pow_width_succ, Nat.mod_mul]

theorem limbsValue_limbsOf_of_lt {k v : Nat} (h : v < 2 ^ (32 * k)) : limbsValue (limbsOf k v) = v := by
  rw [limbsValue_limbsOf, Nat.mod_eq_of_lt h]

/-- The words of a register's integer are the register's words. -/
theorem limbsOf_limbsValue (ws : Limbs) : limbsOf ws.length (limbsValue ws) = ws := by
  induction ws with
  | nil => rfl
  | cons w ws ih =>
    have hw : w.toNat < 2 ^ 32 := w.isLt
    have hdiv : (w.toNat + 2 ^ 32 * limbsValue ws) / 2 ^ 32 = limbsValue ws := by
      rw [Nat.add_mul_div_left _ _ (by positivity), Nat.div_eq_of_lt hw, Nat.zero_add]
    have hmod : BitVec.ofNat 32 (w.toNat + 2 ^ 32 * limbsValue ws) = w := by
      apply BitVec.eq_of_toNat_eq
      rw [BitVec.toNat_ofNat, Nat.add_mul_mod_self_left, Nat.mod_eq_of_lt hw]
    rw [limbsValue_cons, List.length_cons, limbsOf, hdiv, hmod, ih]

/-- Two registers of one width with the same integer are the same words. -/
theorem limbsValue_inj {ws ws' : Limbs} (hl : ws.length = ws'.length) (h : limbsValue ws = limbsValue ws') :
    ws = ws' := by
  rw [← limbsOf_limbsValue ws, ← limbsOf_limbsValue ws', hl, h]

@[simp] theorem zeroLimbs_length (k : Nat) : (zeroLimbs k).length = k := List.length_replicate

@[simp] theorem limbsValue_zeroLimbs (k : Nat) : limbsValue (zeroLimbs k) = 0 := by
  induction k with
  | zero => rfl
  | succ k ih => simpa [zeroLimbs, List.replicate_succ, limbsValue_cons] using ih

theorem limbsOf_zero (k : Nat) : limbsOf k 0 = zeroLimbs k := by
  apply limbsValue_inj
  · simp
  · simp [limbsValue_limbsOf]

@[simp] theorem setWordAt_length (ws : Limbs) (i : Nat) (v : Word) : (setWordAt ws i v).length = ws.length :=
  List.length_set

/-- A read of the word just written returns it. -/
theorem wordAt_setWordAt_same {ws : Limbs} {i : Nat} (h : i < ws.length) (v : Word) :
    wordAt (setWordAt ws i v) i = v := by
  simp [wordAt, setWordAt, List.getD_eq_getElem?_getD, h]

/-- A write of one word leaves every other word alone. -/
theorem wordAt_setWordAt_ne {ws : Limbs} {i j : Nat} (h : i ≠ j) (v : Word) :
    wordAt (setWordAt ws i v) j = wordAt ws j := by
  simp [wordAt, setWordAt, List.getD_eq_getElem?_getD, List.getElem?_set_ne h]

/-- Word `i` of an integer's words is its bits 32·i+31 .. 32·i. -/
theorem wordAt_limbsOf {k i : Nat} (h : i < k) (v : Nat) :
    wordAt (limbsOf k v) i = BitVec.ofNat 32 (v / 2 ^ (32 * i)) := by
  induction k generalizing v i with
  | zero => omega
  | succ k ih =>
    cases i with
    | zero => simp [limbsOf, wordAt]
    | succ i =>
      have := ih (Nat.lt_of_succ_lt_succ h) (v / 2 ^ 32)
      rw [Nat.div_div_eq_div_mul, ← two_pow_width_succ] at this
      simpa [limbsOf, wordAt] using this

/-- Bit 0 of a register is bit 0 of its word 0 (`N[0][0]`, 41_montgomery.md R152). -/
theorem limbsValue_mod_two (ws : Limbs) : limbsValue ws % 2 = (wordAt ws 0).toNat % 2 := by
  cases ws with
  | nil => rfl
  | cons w ws =>
    rw [limbsValue_cons]
    simp only [wordAt, List.getD_cons_zero]
    omega

/-- Writing the words of an integer one by one in rising order leaves exactly its words. -/
theorem limbs_ext {ws ws' : Limbs} (hl : ws.length = ws'.length) (h : ∀ i < ws.length, wordAt ws i = wordAt ws' i) :
    ws = ws' := by
  apply List.ext_getElem hl
  intro i h1 h2
  have := h i h1
  simpa [wordAt, List.getD_eq_getElem?_getD, h1, h2] using this

end Sys2Proof.Machine
end

