-- ==== Sys2Proof/Laws/State.lean ====
section
/-! SUPPORT. For each named update of the state, each field of the result: true by rfl, so that no proof unfolds an
update. Then the derived readings (big registers, integers, width) the update leaves alone. -/

namespace Sys2Proof.Machine

/-! ## setRes -/

@[simp] theorem setRes_nw (v : Nat) (s : State) : (setRes v s).nw = s.nw := rfl
@[simp] theorem setRes_n (v : Nat) (s : State) : (setRes v s).n = s.n := rfl
@[simp] theorem setRes_a (v : Nat) (s : State) : (setRes v s).a = s.a := rfl
@[simp] theorem setRes_b (v : Nat) (s : State) : (setRes v s).b = s.b := rfl
@[simp] theorem setRes_e (v : Nat) (s : State) : (setRes v s).e = s.e := rfl
@[simp] theorem setRes_res (v : Nat) (s : State) : (setRes v s).res = limbsOf s.nw v := rfl
@[simp] theorem setRes_rr (v : Nat) (s : State) : (setRes v s).rr = s.rr := rfl
@[simp] theorem setRes_ieDone (v : Nat) (s : State) : (setRes v s).ieDone = s.ieDone := rfl
@[simp] theorem setRes_ieErr (v : Nat) (s : State) : (setRes v s).ieErr = s.ieErr := rfl
@[simp] theorem setRes_busy (v : Nat) (s : State) : (setRes v s).busy = s.busy := rfl
@[simp] theorem setRes_done (v : Nat) (s : State) : (setRes v s).done = s.done := rfl
@[simp] theorem setRes_err (v : Nat) (s : State) : (setRes v s).err = s.err := rfl
@[simp] theorem setRes_wign (v : Nat) (s : State) : (setRes v s).wign = s.wign := rfl
@[simp] theorem setRes_modvalid (v : Nat) (s : State) : (setRes v s).modvalid = s.modvalid := rfl
@[simp] theorem setRes_ftPass (v : Nat) (s : State) : (setRes v s).ftPass = s.ftPass := rfl
@[simp] theorem setRes_ftComposite (v : Nat) (s : State) : (setRes v s).ftComposite = s.ftComposite := rfl
@[simp] theorem setRes_ftPrime (v : Nat) (s : State) : (setRes v s).ftPrime = s.ftPrime := rfl
@[simp] theorem setRes_errCode (v : Nat) (s : State) : (setRes v s).errCode = s.errCode := rfl
@[simp] theorem setRes_errOp (v : Nat) (s : State) : (setRes v s).errOp = s.errOp := rfl
@[simp] theorem setRes_ftK (v : Nat) (s : State) : (setRes v s).ftK = s.ftK := rfl
@[simp] theorem setRes_ftCount (v : Nat) (s : State) : (setRes v s).ftCount = s.ftCount := rfl
@[simp] theorem setRes_curOp (v : Nat) (s : State) : (setRes v s).curOp = s.curOp := rfl
@[simp] theorem setRes_inputs (v : Nat) (s : State) : (setRes v s).inputs = s.inputs := rfl
@[simp] theorem setRes_turn (v : Nat) (s : State) : (setRes v s).turn = s.turn := rfl
@[simp] theorem setRes_rdata (v : Nat) (s : State) : (setRes v s).rdata = s.rdata := rfl
@[simp] theorem width_setRes (v : Nat) (s : State) : width (setRes v s) = width s := rfl
@[simp] theorem value_n_setRes (v : Nat) (s : State) : value (setRes v s) .n = value s .n := rfl
@[simp] theorem value_a_setRes (v : Nat) (s : State) : value (setRes v s) .a = value s .a := rfl
@[simp] theorem value_b_setRes (v : Nat) (s : State) : value (setRes v s) .b = value s .b := rfl
@[simp] theorem value_e_setRes (v : Nat) (s : State) : value (setRes v s) .e = value s .e := rfl
@[simp] theorem value_res_setRes (v : Nat) (s : State) : value (setRes v s) .res = limbsValue (limbsOf s.nw v) := rfl
@[simp] theorem value_rr_setRes (v : Nat) (s : State) : value (setRes v s) .rr = value s .rr := rfl

/-! ## writeCtrl -/

@[simp] theorem writeCtrl_nw (v : Word) (s : State) : (writeCtrl v s).nw = s.nw := rfl
@[simp] theorem writeCtrl_n (v : Word) (s : State) : (writeCtrl v s).n = s.n := rfl
@[simp] theorem writeCtrl_a (v : Word) (s : State) : (writeCtrl v s).a = s.a := rfl
@[simp] theorem writeCtrl_b (v : Word) (s : State) : (writeCtrl v s).b = s.b := rfl
@[simp] theorem writeCtrl_e (v : Word) (s : State) : (writeCtrl v s).e = s.e := rfl
@[simp] theorem writeCtrl_res (v : Word) (s : State) : (writeCtrl v s).res = s.res := rfl
@[simp] theorem writeCtrl_rr (v : Word) (s : State) : (writeCtrl v s).rr = s.rr := rfl
@[simp] theorem writeCtrl_ieDone (v : Word) (s : State) : (writeCtrl v s).ieDone = v[0] := rfl
@[simp] theorem writeCtrl_ieErr (v : Word) (s : State) : (writeCtrl v s).ieErr = v[1] := rfl
@[simp] theorem writeCtrl_busy (v : Word) (s : State) : (writeCtrl v s).busy = s.busy := rfl
@[simp] theorem writeCtrl_done (v : Word) (s : State) : (writeCtrl v s).done = s.done := rfl
@[simp] theorem writeCtrl_err (v : Word) (s : State) : (writeCtrl v s).err = s.err := rfl
@[simp] theorem writeCtrl_wign (v : Word) (s : State) : (writeCtrl v s).wign = s.wign := rfl
@[simp] theorem writeCtrl_modvalid (v : Word) (s : State) : (writeCtrl v s).modvalid = s.modvalid := rfl
@[simp] theorem writeCtrl_ftPass (v : Word) (s : State) : (writeCtrl v s).ftPass = s.ftPass := rfl
@[simp] theorem writeCtrl_ftComposite (v : Word) (s : State) : (writeCtrl v s).ftComposite = s.ftComposite := rfl
@[simp] theorem writeCtrl_ftPrime (v : Word) (s : State) : (writeCtrl v s).ftPrime = s.ftPrime := rfl
@[simp] theorem writeCtrl_errCode (v : Word) (s : State) : (writeCtrl v s).errCode = s.errCode := rfl
@[simp] theorem writeCtrl_errOp (v : Word) (s : State) : (writeCtrl v s).errOp = s.errOp := rfl
@[simp] theorem writeCtrl_ftK (v : Word) (s : State) : (writeCtrl v s).ftK = s.ftK := rfl
@[simp] theorem writeCtrl_ftCount (v : Word) (s : State) : (writeCtrl v s).ftCount = s.ftCount := rfl
@[simp] theorem writeCtrl_curOp (v : Word) (s : State) : (writeCtrl v s).curOp = s.curOp := rfl
@[simp] theorem writeCtrl_inputs (v : Word) (s : State) : (writeCtrl v s).inputs = s.inputs := rfl
@[simp] theorem writeCtrl_turn (v : Word) (s : State) : (writeCtrl v s).turn = s.turn := rfl
@[simp] theorem writeCtrl_rdata (v : Word) (s : State) : (writeCtrl v s).rdata = s.rdata := rfl
@[simp] theorem width_writeCtrl (v : Word) (s : State) : width (writeCtrl v s) = width s := rfl
@[simp] theorem bigReg_writeCtrl (v : Word) (s : State) (r : BigName) : bigReg (writeCtrl v s) r = bigReg s r := by
  cases r <;> rfl
@[simp] theorem value_writeCtrl (v : Word) (s : State) (r : BigName) : value (writeCtrl v s) r = value s r := by
  cases r <;> rfl

/-! ## acknowledgeError -/

@[simp] theorem acknowledgeError_nw (s : State) : (acknowledgeError s).nw = s.nw := rfl
@[simp] theorem acknowledgeError_n (s : State) : (acknowledgeError s).n = s.n := rfl
@[simp] theorem acknowledgeError_a (s : State) : (acknowledgeError s).a = s.a := rfl
@[simp] theorem acknowledgeError_b (s : State) : (acknowledgeError s).b = s.b := rfl
@[simp] theorem acknowledgeError_e (s : State) : (acknowledgeError s).e = s.e := rfl
@[simp] theorem acknowledgeError_res (s : State) : (acknowledgeError s).res = s.res := rfl
@[simp] theorem acknowledgeError_rr (s : State) : (acknowledgeError s).rr = s.rr := rfl
@[simp] theorem acknowledgeError_ieDone (s : State) : (acknowledgeError s).ieDone = s.ieDone := rfl
@[simp] theorem acknowledgeError_ieErr (s : State) : (acknowledgeError s).ieErr = s.ieErr := rfl
@[simp] theorem acknowledgeError_busy (s : State) : (acknowledgeError s).busy = s.busy := rfl
@[simp] theorem acknowledgeError_done (s : State) : (acknowledgeError s).done = s.done := rfl
@[simp] theorem acknowledgeError_err (s : State) : (acknowledgeError s).err = false := rfl
@[simp] theorem acknowledgeError_wign (s : State) : (acknowledgeError s).wign = s.wign := rfl
@[simp] theorem acknowledgeError_modvalid (s : State) : (acknowledgeError s).modvalid = s.modvalid := rfl
@[simp] theorem acknowledgeError_ftPass (s : State) : (acknowledgeError s).ftPass = s.ftPass := rfl
@[simp] theorem acknowledgeError_ftComposite (s : State) : (acknowledgeError s).ftComposite = s.ftComposite := rfl
@[simp] theorem acknowledgeError_ftPrime (s : State) : (acknowledgeError s).ftPrime = s.ftPrime := rfl
@[simp] theorem acknowledgeError_errCode (s : State) : (acknowledgeError s).errCode = 0#8 := rfl
@[simp] theorem acknowledgeError_errOp (s : State) : (acknowledgeError s).errOp = 0#8 := rfl
@[simp] theorem acknowledgeError_ftK (s : State) : (acknowledgeError s).ftK = s.ftK := rfl
@[simp] theorem acknowledgeError_ftCount (s : State) : (acknowledgeError s).ftCount = s.ftCount := rfl
@[simp] theorem acknowledgeError_curOp (s : State) : (acknowledgeError s).curOp = s.curOp := rfl
@[simp] theorem acknowledgeError_inputs (s : State) : (acknowledgeError s).inputs = s.inputs := rfl
@[simp] theorem acknowledgeError_turn (s : State) : (acknowledgeError s).turn = s.turn := rfl
@[simp] theorem acknowledgeError_rdata (s : State) : (acknowledgeError s).rdata = s.rdata := rfl
@[simp] theorem width_acknowledgeError (s : State) : width (acknowledgeError s) = width s := rfl
@[simp] theorem bigReg_acknowledgeError (s : State) (r : BigName) : bigReg (acknowledgeError s) r = bigReg s r := by
  cases r <;> rfl
@[simp] theorem value_acknowledgeError (s : State) (r : BigName) : value (acknowledgeError s) r = value s r := by
  cases r <;> rfl

/-! ## clearDoneWign -/

@[simp] theorem clearDoneWign_nw (v : Word) (s : State) : (clearDoneWign v s).nw = s.nw := rfl
@[simp] theorem clearDoneWign_n (v : Word) (s : State) : (clearDoneWign v s).n = s.n := rfl
@[simp] theorem clearDoneWign_a (v : Word) (s : State) : (clearDoneWign v s).a = s.a := rfl
@[simp] theorem clearDoneWign_b (v : Word) (s : State) : (clearDoneWign v s).b = s.b := rfl
@[simp] theorem clearDoneWign_e (v : Word) (s : State) : (clearDoneWign v s).e = s.e := rfl
@[simp] theorem clearDoneWign_res (v : Word) (s : State) : (clearDoneWign v s).res = s.res := rfl
@[simp] theorem clearDoneWign_rr (v : Word) (s : State) : (clearDoneWign v s).rr = s.rr := rfl
@[simp] theorem clearDoneWign_ieDone (v : Word) (s : State) : (clearDoneWign v s).ieDone = s.ieDone := rfl
@[simp] theorem clearDoneWign_ieErr (v : Word) (s : State) : (clearDoneWign v s).ieErr = s.ieErr := rfl
@[simp] theorem clearDoneWign_busy (v : Word) (s : State) : (clearDoneWign v s).busy = s.busy := rfl
@[simp] theorem clearDoneWign_done (v : Word) (s : State) : (clearDoneWign v s).done = (s.done && !v[1]) := rfl
@[simp] theorem clearDoneWign_err (v : Word) (s : State) : (clearDoneWign v s).err = s.err := rfl
@[simp] theorem clearDoneWign_wign (v : Word) (s : State) : (clearDoneWign v s).wign = (s.wign && !v[3]) := rfl
@[simp] theorem clearDoneWign_modvalid (v : Word) (s : State) : (clearDoneWign v s).modvalid = s.modvalid := rfl
@[simp] theorem clearDoneWign_ftPass (v : Word) (s : State) : (clearDoneWign v s).ftPass = s.ftPass := rfl
@[simp] theorem clearDoneWign_ftComposite (v : Word) (s : State) : (clearDoneWign v s).ftComposite = s.ftComposite := rfl
@[simp] theorem clearDoneWign_ftPrime (v : Word) (s : State) : (clearDoneWign v s).ftPrime = s.ftPrime := rfl
@[simp] theorem clearDoneWign_errCode (v : Word) (s : State) : (clearDoneWign v s).errCode = s.errCode := rfl
@[simp] theorem clearDoneWign_errOp (v : Word) (s : State) : (clearDoneWign v s).errOp = s.errOp := rfl
@[simp] theorem clearDoneWign_ftK (v : Word) (s : State) : (clearDoneWign v s).ftK = s.ftK := rfl
@[simp] theorem clearDoneWign_ftCount (v : Word) (s : State) : (clearDoneWign v s).ftCount = s.ftCount := rfl
@[simp] theorem clearDoneWign_curOp (v : Word) (s : State) : (clearDoneWign v s).curOp = s.curOp := rfl
@[simp] theorem clearDoneWign_inputs (v : Word) (s : State) : (clearDoneWign v s).inputs = s.inputs := rfl
@[simp] theorem clearDoneWign_turn (v : Word) (s : State) : (clearDoneWign v s).turn = s.turn := rfl
@[simp] theorem clearDoneWign_rdata (v : Word) (s : State) : (clearDoneWign v s).rdata = s.rdata := rfl
@[simp] theorem width_clearDoneWign (v : Word) (s : State) : width (clearDoneWign v s) = width s := rfl
@[simp] theorem bigReg_clearDoneWign (v : Word) (s : State) (r : BigName) : bigReg (clearDoneWign v s) r = bigReg s r := by
  cases r <;> rfl
@[simp] theorem value_clearDoneWign (v : Word) (s : State) (r : BigName) : value (clearDoneWign v s) r = value s r := by
  cases r <;> rfl

/-! ## clearFermat -/

@[simp] theorem clearFermat_nw (s : State) : (clearFermat s).nw = s.nw := rfl
@[simp] theorem clearFermat_n (s : State) : (clearFermat s).n = s.n := rfl
@[simp] theorem clearFermat_a (s : State) : (clearFermat s).a = s.a := rfl
@[simp] theorem clearFermat_b (s : State) : (clearFermat s).b = s.b := rfl
@[simp] theorem clearFermat_e (s : State) : (clearFermat s).e = s.e := rfl
@[simp] theorem clearFermat_res (s : State) : (clearFermat s).res = s.res := rfl
@[simp] theorem clearFermat_rr (s : State) : (clearFermat s).rr = s.rr := rfl
@[simp] theorem clearFermat_ieDone (s : State) : (clearFermat s).ieDone = s.ieDone := rfl
@[simp] theorem clearFermat_ieErr (s : State) : (clearFermat s).ieErr = s.ieErr := rfl
@[simp] theorem clearFermat_busy (s : State) : (clearFermat s).busy = s.busy := rfl
@[simp] theorem clearFermat_done (s : State) : (clearFermat s).done = s.done := rfl
@[simp] theorem clearFermat_err (s : State) : (clearFermat s).err = s.err := rfl
@[simp] theorem clearFermat_wign (s : State) : (clearFermat s).wign = s.wign := rfl
@[simp] theorem clearFermat_modvalid (s : State) : (clearFermat s).modvalid = s.modvalid := rfl
@[simp] theorem clearFermat_ftPass (s : State) : (clearFermat s).ftPass = false := rfl
@[simp] theorem clearFermat_ftComposite (s : State) : (clearFermat s).ftComposite = false := rfl
@[simp] theorem clearFermat_ftPrime (s : State) : (clearFermat s).ftPrime = false := rfl
@[simp] theorem clearFermat_errCode (s : State) : (clearFermat s).errCode = s.errCode := rfl
@[simp] theorem clearFermat_errOp (s : State) : (clearFermat s).errOp = s.errOp := rfl
@[simp] theorem clearFermat_ftK (s : State) : (clearFermat s).ftK = s.ftK := rfl
@[simp] theorem clearFermat_ftCount (s : State) : (clearFermat s).ftCount = 0#32 := rfl
@[simp] theorem clearFermat_curOp (s : State) : (clearFermat s).curOp = s.curOp := rfl
@[simp] theorem clearFermat_inputs (s : State) : (clearFermat s).inputs = s.inputs := rfl
@[simp] theorem clearFermat_turn (s : State) : (clearFermat s).turn = s.turn := rfl
@[simp] theorem clearFermat_rdata (s : State) : (clearFermat s).rdata = s.rdata := rfl
@[simp] theorem width_clearFermat (s : State) : width (clearFermat s) = width s := rfl
@[simp] theorem bigReg_clearFermat (s : State) (r : BigName) : bigReg (clearFermat s) r = bigReg s r := by
  cases r <;> rfl
@[simp] theorem value_clearFermat (s : State) (r : BigName) : value (clearFermat s) r = value s r := by
  cases r <;> rfl

/-! ## lockedWrite -/

@[simp] theorem lockedWrite_nw (s : State) : (lockedWrite s).nw = s.nw := rfl
@[simp] theorem lockedWrite_n (s : State) : (lockedWrite s).n = s.n := rfl
@[simp] theorem lockedWrite_a (s : State) : (lockedWrite s).a = s.a := rfl
@[simp] theorem lockedWrite_b (s : State) : (lockedWrite s).b = s.b := rfl
@[simp] theorem lockedWrite_e (s : State) : (lockedWrite s).e = s.e := rfl
@[simp] theorem lockedWrite_res (s : State) : (lockedWrite s).res = s.res := rfl
@[simp] theorem lockedWrite_rr (s : State) : (lockedWrite s).rr = s.rr := rfl
@[simp] theorem lockedWrite_ieDone (s : State) : (lockedWrite s).ieDone = s.ieDone := rfl
@[simp] theorem lockedWrite_ieErr (s : State) : (lockedWrite s).ieErr = s.ieErr := rfl
@[simp] theorem lockedWrite_busy (s : State) : (lockedWrite s).busy = s.busy := rfl
@[simp] theorem lockedWrite_done (s : State) : (lockedWrite s).done = s.done := rfl
@[simp] theorem lockedWrite_err (s : State) : (lockedWrite s).err = s.err := rfl
@[simp] theorem lockedWrite_wign (s : State) : (lockedWrite s).wign = true := rfl
@[simp] theorem lockedWrite_modvalid (s : State) : (lockedWrite s).modvalid = s.modvalid := rfl
@[simp] theorem lockedWrite_ftPass (s : State) : (lockedWrite s).ftPass = s.ftPass := rfl
@[simp] theorem lockedWrite_ftComposite (s : State) : (lockedWrite s).ftComposite = s.ftComposite := rfl
@[simp] theorem lockedWrite_ftPrime (s : State) : (lockedWrite s).ftPrime = s.ftPrime := rfl
@[simp] theorem lockedWrite_errCode (s : State) : (lockedWrite s).errCode = s.errCode := rfl
@[simp] theorem lockedWrite_errOp (s : State) : (lockedWrite s).errOp = s.errOp := rfl
@[simp] theorem lockedWrite_ftK (s : State) : (lockedWrite s).ftK = s.ftK := rfl
@[simp] theorem lockedWrite_ftCount (s : State) : (lockedWrite s).ftCount = s.ftCount := rfl
@[simp] theorem lockedWrite_curOp (s : State) : (lockedWrite s).curOp = s.curOp := rfl
@[simp] theorem lockedWrite_inputs (s : State) : (lockedWrite s).inputs = s.inputs := rfl
@[simp] theorem lockedWrite_turn (s : State) : (lockedWrite s).turn = s.turn := rfl
@[simp] theorem lockedWrite_rdata (s : State) : (lockedWrite s).rdata = s.rdata := rfl
@[simp] theorem width_lockedWrite (s : State) : width (lockedWrite s) = width s := rfl
@[simp] theorem bigReg_lockedWrite (s : State) (r : BigName) : bigReg (lockedWrite s) r = bigReg s r := by
  cases r <;> rfl
@[simp] theorem value_lockedWrite (s : State) (r : BigName) : value (lockedWrite s) r = value s r := by
  cases r <;> rfl

/-! ## storeModulus -/

@[simp] theorem storeModulus_nw (i : Nat) (v : Word) (s : State) : (storeModulus i v s).nw = s.nw := rfl
@[simp] theorem storeModulus_n (i : Nat) (v : Word) (s : State) : (storeModulus i v s).n = setWordAt s.n i v := rfl
@[simp] theorem storeModulus_a (i : Nat) (v : Word) (s : State) : (storeModulus i v s).a = s.a := rfl
@[simp] theorem storeModulus_b (i : Nat) (v : Word) (s : State) : (storeModulus i v s).b = s.b := rfl
@[simp] theorem storeModulus_e (i : Nat) (v : Word) (s : State) : (storeModulus i v s).e = s.e := rfl
@[simp] theorem storeModulus_res (i : Nat) (v : Word) (s : State) : (storeModulus i v s).res = s.res := rfl
@[simp] theorem storeModulus_rr (i : Nat) (v : Word) (s : State) : (storeModulus i v s).rr = zeroLimbs s.nw := rfl
@[simp] theorem storeModulus_ieDone (i : Nat) (v : Word) (s : State) : (storeModulus i v s).ieDone = s.ieDone := rfl
@[simp] theorem storeModulus_ieErr (i : Nat) (v : Word) (s : State) : (storeModulus i v s).ieErr = s.ieErr := rfl
@[simp] theorem storeModulus_busy (i : Nat) (v : Word) (s : State) : (storeModulus i v s).busy = s.busy := rfl
@[simp] theorem storeModulus_done (i : Nat) (v : Word) (s : State) : (storeModulus i v s).done = s.done := rfl
@[simp] theorem storeModulus_err (i : Nat) (v : Word) (s : State) : (storeModulus i v s).err = s.err := rfl
@[simp] theorem storeModulus_wign (i : Nat) (v : Word) (s : State) : (storeModulus i v s).wign = s.wign := rfl
@[simp] theorem storeModulus_modvalid (i : Nat) (v : Word) (s : State) : (storeModulus i v s).modvalid = false := rfl
@[simp] theorem storeModulus_ftPass (i : Nat) (v : Word) (s : State) : (storeModulus i v s).ftPass = false := rfl
@[simp] theorem storeModulus_ftComposite (i : Nat) (v : Word) (s : State) : (storeModulus i v s).ftComposite = false := rfl
@[simp] theorem storeModulus_ftPrime (i : Nat) (v : Word) (s : State) : (storeModulus i v s).ftPrime = false := rfl
@[simp] theorem storeModulus_errCode (i : Nat) (v : Word) (s : State) : (storeModulus i v s).errCode = s.errCode := rfl
@[simp] theorem storeModulus_errOp (i : Nat) (v : Word) (s : State) : (storeModulus i v s).errOp = s.errOp := rfl
@[simp] theorem storeModulus_ftK (i : Nat) (v : Word) (s : State) : (storeModulus i v s).ftK = s.ftK := rfl
@[simp] theorem storeModulus_ftCount (i : Nat) (v : Word) (s : State) : (storeModulus i v s).ftCount = 0#32 := rfl
@[simp] theorem storeModulus_curOp (i : Nat) (v : Word) (s : State) : (storeModulus i v s).curOp = s.curOp := rfl
@[simp] theorem storeModulus_inputs (i : Nat) (v : Word) (s : State) : (storeModulus i v s).inputs = s.inputs := rfl
@[simp] theorem storeModulus_turn (i : Nat) (v : Word) (s : State) : (storeModulus i v s).turn = s.turn := rfl
@[simp] theorem storeModulus_rdata (i : Nat) (v : Word) (s : State) : (storeModulus i v s).rdata = s.rdata := rfl
@[simp] theorem width_storeModulus (i : Nat) (v : Word) (s : State) : width (storeModulus i v s) = width s := rfl
@[simp] theorem value_n_storeModulus (i : Nat) (v : Word) (s : State) : value (storeModulus i v s) .n = limbsValue (setWordAt s.n i v) := rfl
@[simp] theorem value_a_storeModulus (i : Nat) (v : Word) (s : State) : value (storeModulus i v s) .a = value s .a := rfl
@[simp] theorem value_b_storeModulus (i : Nat) (v : Word) (s : State) : value (storeModulus i v s) .b = value s .b := rfl
@[simp] theorem value_e_storeModulus (i : Nat) (v : Word) (s : State) : value (storeModulus i v s) .e = value s .e := rfl
@[simp] theorem value_res_storeModulus (i : Nat) (v : Word) (s : State) : value (storeModulus i v s) .res = value s .res := rfl
@[simp] theorem value_rr_storeModulus (i : Nat) (v : Word) (s : State) : value (storeModulus i v s) .rr = limbsValue (zeroLimbs s.nw) := rfl

/-! ## raiseError -/

@[simp] theorem raiseError_nw (c : ErrCode) (op : Byte) (s : State) : (raiseError c op s).nw = s.nw := rfl
@[simp] theorem raiseError_n (c : ErrCode) (op : Byte) (s : State) : (raiseError c op s).n = s.n := rfl
@[simp] theorem raiseError_a (c : ErrCode) (op : Byte) (s : State) : (raiseError c op s).a = s.a := rfl
@[simp] theorem raiseError_b (c : ErrCode) (op : Byte) (s : State) : (raiseError c op s).b = s.b := rfl
@[simp] theorem raiseError_e (c : ErrCode) (op : Byte) (s : State) : (raiseError c op s).e = s.e := rfl
@[simp] theorem raiseError_res (c : ErrCode) (op : Byte) (s : State) : (raiseError c op s).res = s.res := rfl
@[simp] theorem raiseError_rr (c : ErrCode) (op : Byte) (s : State) : (raiseError c op s).rr = s.rr := rfl
@[simp] theorem raiseError_ieDone (c : ErrCode) (op : Byte) (s : State) : (raiseError c op s).ieDone = s.ieDone := rfl
@[simp] theorem raiseError_ieErr (c : ErrCode) (op : Byte) (s : State) : (raiseError c op s).ieErr = s.ieErr := rfl
@[simp] theorem raiseError_busy (c : ErrCode) (op : Byte) (s : State) : (raiseError c op s).busy = s.busy := rfl
@[simp] theorem raiseError_done (c : ErrCode) (op : Byte) (s : State) : (raiseError c op s).done = s.done := rfl
@[simp] theorem raiseError_err (c : ErrCode) (op : Byte) (s : State) : (raiseError c op s).err = true := rfl
@[simp] theorem raiseError_wign (c : ErrCode) (op : Byte) (s : State) : (raiseError c op s).wign = s.wign := rfl
@[simp] theorem raiseError_modvalid (c : ErrCode) (op : Byte) (s : State) : (raiseError c op s).modvalid = s.modvalid := rfl
@[simp] theorem raiseError_ftPass (c : ErrCode) (op : Byte) (s : State) : (raiseError c op s).ftPass = s.ftPass := rfl
@[simp] theorem raiseError_ftComposite (c : ErrCode) (op : Byte) (s : State) : (raiseError c op s).ftComposite = s.ftComposite := rfl
@[simp] theorem raiseError_ftPrime (c : ErrCode) (op : Byte) (s : State) : (raiseError c op s).ftPrime = s.ftPrime := rfl
@[simp] theorem raiseError_errCode (c : ErrCode) (op : Byte) (s : State) : (raiseError c op s).errCode = errByte c := rfl
@[simp] theorem raiseError_errOp (c : ErrCode) (op : Byte) (s : State) : (raiseError c op s).errOp = op := rfl
@[simp] theorem raiseError_ftK (c : ErrCode) (op : Byte) (s : State) : (raiseError c op s).ftK = s.ftK := rfl
@[simp] theorem raiseError_ftCount (c : ErrCode) (op : Byte) (s : State) : (raiseError c op s).ftCount = s.ftCount := rfl
@[simp] theorem raiseError_curOp (c : ErrCode) (op : Byte) (s : State) : (raiseError c op s).curOp = s.curOp := rfl
@[simp] theorem raiseError_inputs (c : ErrCode) (op : Byte) (s : State) : (raiseError c op s).inputs = s.inputs := rfl
@[simp] theorem raiseError_turn (c : ErrCode) (op : Byte) (s : State) : (raiseError c op s).turn = s.turn := rfl
@[simp] theorem raiseError_rdata (c : ErrCode) (op : Byte) (s : State) : (raiseError c op s).rdata = s.rdata := rfl
@[simp] theorem width_raiseError (c : ErrCode) (op : Byte) (s : State) : width (raiseError c op s) = width s := rfl
@[simp] theorem bigReg_raiseError (c : ErrCode) (op : Byte) (s : State) (r : BigName) : bigReg (raiseError c op s) r = bigReg s r := by
  cases r <;> rfl
@[simp] theorem value_raiseError (c : ErrCode) (op : Byte) (s : State) (r : BigName) : value (raiseError c op s) r = value s r := by
  cases r <;> rfl

/-! ## acceptCommand -/

@[simp] theorem acceptCommand_nw (op : Byte) (s : State) : (acceptCommand op s).nw = s.nw := rfl
@[simp] theorem acceptCommand_n (op : Byte) (s : State) : (acceptCommand op s).n = s.n := rfl
@[simp] theorem acceptCommand_a (op : Byte) (s : State) : (acceptCommand op s).a = s.a := rfl
@[simp] theorem acceptCommand_b (op : Byte) (s : State) : (acceptCommand op s).b = s.b := rfl
@[simp] theorem acceptCommand_e (op : Byte) (s : State) : (acceptCommand op s).e = s.e := rfl
@[simp] theorem acceptCommand_res (op : Byte) (s : State) : (acceptCommand op s).res = s.res := rfl
@[simp] theorem acceptCommand_rr (op : Byte) (s : State) : (acceptCommand op s).rr = s.rr := rfl
@[simp] theorem acceptCommand_ieDone (op : Byte) (s : State) : (acceptCommand op s).ieDone = s.ieDone := rfl
@[simp] theorem acceptCommand_ieErr (op : Byte) (s : State) : (acceptCommand op s).ieErr = s.ieErr := rfl
@[simp] theorem acceptCommand_busy (op : Byte) (s : State) : (acceptCommand op s).busy = true := rfl
@[simp] theorem acceptCommand_done (op : Byte) (s : State) : (acceptCommand op s).done = false := rfl
@[simp] theorem acceptCommand_err (op : Byte) (s : State) : (acceptCommand op s).err = s.err := rfl
@[simp] theorem acceptCommand_wign (op : Byte) (s : State) : (acceptCommand op s).wign = s.wign := rfl
@[simp] theorem acceptCommand_modvalid (op : Byte) (s : State) : (acceptCommand op s).modvalid = s.modvalid := rfl
@[simp] theorem acceptCommand_ftPass (op : Byte) (s : State) : (acceptCommand op s).ftPass = s.ftPass := rfl
@[simp] theorem acceptCommand_ftComposite (op : Byte) (s : State) : (acceptCommand op s).ftComposite = s.ftComposite := rfl
@[simp] theorem acceptCommand_ftPrime (op : Byte) (s : State) : (acceptCommand op s).ftPrime = s.ftPrime := rfl
@[simp] theorem acceptCommand_errCode (op : Byte) (s : State) : (acceptCommand op s).errCode = s.errCode := rfl
@[simp] theorem acceptCommand_errOp (op : Byte) (s : State) : (acceptCommand op s).errOp = s.errOp := rfl
@[simp] theorem acceptCommand_ftK (op : Byte) (s : State) : (acceptCommand op s).ftK = s.ftK := rfl
@[simp] theorem acceptCommand_ftCount (op : Byte) (s : State) : (acceptCommand op s).ftCount = s.ftCount := rfl
@[simp] theorem acceptCommand_curOp (op : Byte) (s : State) : (acceptCommand op s).curOp = op := rfl
@[simp] theorem acceptCommand_inputs (op : Byte) (s : State) : (acceptCommand op s).inputs = s.inputs := rfl
@[simp] theorem acceptCommand_turn (op : Byte) (s : State) : (acceptCommand op s).turn = s.turn := rfl
@[simp] theorem acceptCommand_rdata (op : Byte) (s : State) : (acceptCommand op s).rdata = s.rdata := rfl
@[simp] theorem width_acceptCommand (op : Byte) (s : State) : width (acceptCommand op s) = width s := rfl
@[simp] theorem bigReg_acceptCommand (op : Byte) (s : State) (r : BigName) : bigReg (acceptCommand op s) r = bigReg s r := by
  cases r <;> rfl
@[simp] theorem value_acceptCommand (op : Byte) (s : State) (r : BigName) : value (acceptCommand op s) r = value s r := by
  cases r <;> rfl

/-! ## finishCommand -/

@[simp] theorem finishCommand_nw (s : State) : (finishCommand s).nw = s.nw := rfl
@[simp] theorem finishCommand_n (s : State) : (finishCommand s).n = s.n := rfl
@[simp] theorem finishCommand_a (s : State) : (finishCommand s).a = s.a := rfl
@[simp] theorem finishCommand_b (s : State) : (finishCommand s).b = s.b := rfl
@[simp] theorem finishCommand_e (s : State) : (finishCommand s).e = s.e := rfl
@[simp] theorem finishCommand_res (s : State) : (finishCommand s).res = s.res := rfl
@[simp] theorem finishCommand_rr (s : State) : (finishCommand s).rr = s.rr := rfl
@[simp] theorem finishCommand_ieDone (s : State) : (finishCommand s).ieDone = s.ieDone := rfl
@[simp] theorem finishCommand_ieErr (s : State) : (finishCommand s).ieErr = s.ieErr := rfl
@[simp] theorem finishCommand_busy (s : State) : (finishCommand s).busy = false := rfl
@[simp] theorem finishCommand_done (s : State) : (finishCommand s).done = true := rfl
@[simp] theorem finishCommand_err (s : State) : (finishCommand s).err = s.err := rfl
@[simp] theorem finishCommand_wign (s : State) : (finishCommand s).wign = s.wign := rfl
@[simp] theorem finishCommand_modvalid (s : State) : (finishCommand s).modvalid = s.modvalid := rfl
@[simp] theorem finishCommand_ftPass (s : State) : (finishCommand s).ftPass = s.ftPass := rfl
@[simp] theorem finishCommand_ftComposite (s : State) : (finishCommand s).ftComposite = s.ftComposite := rfl
@[simp] theorem finishCommand_ftPrime (s : State) : (finishCommand s).ftPrime = s.ftPrime := rfl
@[simp] theorem finishCommand_errCode (s : State) : (finishCommand s).errCode = s.errCode := rfl
@[simp] theorem finishCommand_errOp (s : State) : (finishCommand s).errOp = s.errOp := rfl
@[simp] theorem finishCommand_ftK (s : State) : (finishCommand s).ftK = s.ftK := rfl
@[simp] theorem finishCommand_ftCount (s : State) : (finishCommand s).ftCount = s.ftCount := rfl
@[simp] theorem finishCommand_curOp (s : State) : (finishCommand s).curOp = s.curOp := rfl
@[simp] theorem finishCommand_inputs (s : State) : (finishCommand s).inputs = s.inputs := rfl
@[simp] theorem finishCommand_turn (s : State) : (finishCommand s).turn = s.turn := rfl
@[simp] theorem finishCommand_rdata (s : State) : (finishCommand s).rdata = s.rdata := rfl
@[simp] theorem width_finishCommand (s : State) : width (finishCommand s) = width s := rfl
@[simp] theorem bigReg_finishCommand (s : State) (r : BigName) : bigReg (finishCommand s) r = bigReg s r := by
  cases r <;> rfl
@[simp] theorem value_finishCommand (s : State) (r : BigName) : value (finishCommand s) r = value s r := by
  cases r <;> rfl

/-! ## beginStep -/

@[simp] theorem beginStep_nw (t : Agent) (rest : List Event) (s : State) : (beginStep t rest s).nw = s.nw := rfl
@[simp] theorem beginStep_n (t : Agent) (rest : List Event) (s : State) : (beginStep t rest s).n = s.n := rfl
@[simp] theorem beginStep_a (t : Agent) (rest : List Event) (s : State) : (beginStep t rest s).a = s.a := rfl
@[simp] theorem beginStep_b (t : Agent) (rest : List Event) (s : State) : (beginStep t rest s).b = s.b := rfl
@[simp] theorem beginStep_e (t : Agent) (rest : List Event) (s : State) : (beginStep t rest s).e = s.e := rfl
@[simp] theorem beginStep_res (t : Agent) (rest : List Event) (s : State) : (beginStep t rest s).res = s.res := rfl
@[simp] theorem beginStep_rr (t : Agent) (rest : List Event) (s : State) : (beginStep t rest s).rr = s.rr := rfl
@[simp] theorem beginStep_ieDone (t : Agent) (rest : List Event) (s : State) : (beginStep t rest s).ieDone = s.ieDone := rfl
@[simp] theorem beginStep_ieErr (t : Agent) (rest : List Event) (s : State) : (beginStep t rest s).ieErr = s.ieErr := rfl
@[simp] theorem beginStep_busy (t : Agent) (rest : List Event) (s : State) : (beginStep t rest s).busy = s.busy := rfl
@[simp] theorem beginStep_done (t : Agent) (rest : List Event) (s : State) : (beginStep t rest s).done = s.done := rfl
@[simp] theorem beginStep_err (t : Agent) (rest : List Event) (s : State) : (beginStep t rest s).err = s.err := rfl
@[simp] theorem beginStep_wign (t : Agent) (rest : List Event) (s : State) : (beginStep t rest s).wign = s.wign := rfl
@[simp] theorem beginStep_modvalid (t : Agent) (rest : List Event) (s : State) : (beginStep t rest s).modvalid = s.modvalid := rfl
@[simp] theorem beginStep_ftPass (t : Agent) (rest : List Event) (s : State) : (beginStep t rest s).ftPass = s.ftPass := rfl
@[simp] theorem beginStep_ftComposite (t : Agent) (rest : List Event) (s : State) : (beginStep t rest s).ftComposite = s.ftComposite := rfl
@[simp] theorem beginStep_ftPrime (t : Agent) (rest : List Event) (s : State) : (beginStep t rest s).ftPrime = s.ftPrime := rfl
@[simp] theorem beginStep_errCode (t : Agent) (rest : List Event) (s : State) : (beginStep t rest s).errCode = s.errCode := rfl
@[simp] theorem beginStep_errOp (t : Agent) (rest : List Event) (s : State) : (beginStep t rest s).errOp = s.errOp := rfl
@[simp] theorem beginStep_ftK (t : Agent) (rest : List Event) (s : State) : (beginStep t rest s).ftK = s.ftK := rfl
@[simp] theorem beginStep_ftCount (t : Agent) (rest : List Event) (s : State) : (beginStep t rest s).ftCount = s.ftCount := rfl
@[simp] theorem beginStep_curOp (t : Agent) (rest : List Event) (s : State) : (beginStep t rest s).curOp = s.curOp := rfl
@[simp] theorem beginStep_inputs (t : Agent) (rest : List Event) (s : State) : (beginStep t rest s).inputs = rest := rfl
@[simp] theorem beginStep_turn (t : Agent) (rest : List Event) (s : State) : (beginStep t rest s).turn = t := rfl
@[simp] theorem beginStep_rdata (t : Agent) (rest : List Event) (s : State) : (beginStep t rest s).rdata = none := rfl
@[simp] theorem width_beginStep (t : Agent) (rest : List Event) (s : State) : width (beginStep t rest s) = width s := rfl
@[simp] theorem bigReg_beginStep (t : Agent) (rest : List Event) (s : State) (r : BigName) : bigReg (beginStep t rest s) r = bigReg s r := by
  cases r <;> rfl
@[simp] theorem value_beginStep (t : Agent) (rest : List Event) (s : State) (r : BigName) : value (beginStep t rest s) r = value s r := by
  cases r <;> rfl

/-! ## presentRead -/

@[simp] theorem presentRead_nw (w : WordIndex) (s : State) : (presentRead w s).nw = s.nw := rfl
@[simp] theorem presentRead_n (w : WordIndex) (s : State) : (presentRead w s).n = s.n := rfl
@[simp] theorem presentRead_a (w : WordIndex) (s : State) : (presentRead w s).a = s.a := rfl
@[simp] theorem presentRead_b (w : WordIndex) (s : State) : (presentRead w s).b = s.b := rfl
@[simp] theorem presentRead_e (w : WordIndex) (s : State) : (presentRead w s).e = s.e := rfl
@[simp] theorem presentRead_res (w : WordIndex) (s : State) : (presentRead w s).res = s.res := rfl
@[simp] theorem presentRead_rr (w : WordIndex) (s : State) : (presentRead w s).rr = s.rr := rfl
@[simp] theorem presentRead_ieDone (w : WordIndex) (s : State) : (presentRead w s).ieDone = s.ieDone := rfl
@[simp] theorem presentRead_ieErr (w : WordIndex) (s : State) : (presentRead w s).ieErr = s.ieErr := rfl
@[simp] theorem presentRead_busy (w : WordIndex) (s : State) : (presentRead w s).busy = s.busy := rfl
@[simp] theorem presentRead_done (w : WordIndex) (s : State) : (presentRead w s).done = s.done := rfl
@[simp] theorem presentRead_err (w : WordIndex) (s : State) : (presentRead w s).err = s.err := rfl
@[simp] theorem presentRead_wign (w : WordIndex) (s : State) : (presentRead w s).wign = s.wign := rfl
@[simp] theorem presentRead_modvalid (w : WordIndex) (s : State) : (presentRead w s).modvalid = s.modvalid := rfl
@[simp] theorem presentRead_ftPass (w : WordIndex) (s : State) : (presentRead w s).ftPass = s.ftPass := rfl
@[simp] theorem presentRead_ftComposite (w : WordIndex) (s : State) : (presentRead w s).ftComposite = s.ftComposite := rfl
@[simp] theorem presentRead_ftPrime (w : WordIndex) (s : State) : (presentRead w s).ftPrime = s.ftPrime := rfl
@[simp] theorem presentRead_errCode (w : WordIndex) (s : State) : (presentRead w s).errCode = s.errCode := rfl
@[simp] theorem presentRead_errOp (w : WordIndex) (s : State) : (presentRead w s).errOp = s.errOp := rfl
@[simp] theorem presentRead_ftK (w : WordIndex) (s : State) : (presentRead w s).ftK = s.ftK := rfl
@[simp] theorem presentRead_ftCount (w : WordIndex) (s : State) : (presentRead w s).ftCount = s.ftCount := rfl
@[simp] theorem presentRead_curOp (w : WordIndex) (s : State) : (presentRead w s).curOp = s.curOp := rfl
@[simp] theorem presentRead_inputs (w : WordIndex) (s : State) : (presentRead w s).inputs = s.inputs := rfl
@[simp] theorem presentRead_turn (w : WordIndex) (s : State) : (presentRead w s).turn = s.turn := rfl
@[simp] theorem presentRead_rdata (w : WordIndex) (s : State) : (presentRead w s).rdata = some (readWord s w) := rfl
@[simp] theorem width_presentRead (w : WordIndex) (s : State) : width (presentRead w s) = width s := rfl
@[simp] theorem bigReg_presentRead (w : WordIndex) (s : State) (r : BigName) : bigReg (presentRead w s) r = bigReg s r := by
  cases r <;> rfl
@[simp] theorem value_presentRead (w : WordIndex) (s : State) (r : BigName) : value (presentRead w s) r = value s r := by
  cases r <;> rfl

/-! ## effectSetup -/

@[simp] theorem effectSetup_nw (s : State) : (effectSetup s).nw = s.nw := rfl
@[simp] theorem effectSetup_n (s : State) : (effectSetup s).n = s.n := rfl
@[simp] theorem effectSetup_a (s : State) : (effectSetup s).a = s.a := rfl
@[simp] theorem effectSetup_b (s : State) : (effectSetup s).b = s.b := rfl
@[simp] theorem effectSetup_e (s : State) : (effectSetup s).e = s.e := rfl
@[simp] theorem effectSetup_res (s : State) : (effectSetup s).res = s.res := rfl
@[simp] theorem effectSetup_rr (s : State) : (effectSetup s).rr = limbsOf s.nw (modN (2 ^ (2 * width s)) (value s .n)) := rfl
@[simp] theorem effectSetup_ieDone (s : State) : (effectSetup s).ieDone = s.ieDone := rfl
@[simp] theorem effectSetup_ieErr (s : State) : (effectSetup s).ieErr = s.ieErr := rfl
@[simp] theorem effectSetup_busy (s : State) : (effectSetup s).busy = s.busy := rfl
@[simp] theorem effectSetup_done (s : State) : (effectSetup s).done = s.done := rfl
@[simp] theorem effectSetup_err (s : State) : (effectSetup s).err = s.err := rfl
@[simp] theorem effectSetup_wign (s : State) : (effectSetup s).wign = s.wign := rfl
@[simp] theorem effectSetup_modvalid (s : State) : (effectSetup s).modvalid = true := rfl
@[simp] theorem effectSetup_ftPass (s : State) : (effectSetup s).ftPass = s.ftPass := rfl
@[simp] theorem effectSetup_ftComposite (s : State) : (effectSetup s).ftComposite = s.ftComposite := rfl
@[simp] theorem effectSetup_ftPrime (s : State) : (effectSetup s).ftPrime = s.ftPrime := rfl
@[simp] theorem effectSetup_errCode (s : State) : (effectSetup s).errCode = s.errCode := rfl
@[simp] theorem effectSetup_errOp (s : State) : (effectSetup s).errOp = s.errOp := rfl
@[simp] theorem effectSetup_ftK (s : State) : (effectSetup s).ftK = s.ftK := rfl
@[simp] theorem effectSetup_ftCount (s : State) : (effectSetup s).ftCount = s.ftCount := rfl
@[simp] theorem effectSetup_curOp (s : State) : (effectSetup s).curOp = s.curOp := rfl
@[simp] theorem effectSetup_inputs (s : State) : (effectSetup s).inputs = s.inputs := rfl
@[simp] theorem effectSetup_turn (s : State) : (effectSetup s).turn = s.turn := rfl
@[simp] theorem effectSetup_rdata (s : State) : (effectSetup s).rdata = s.rdata := rfl
@[simp] theorem width_effectSetup (s : State) : width (effectSetup s) = width s := rfl
@[simp] theorem value_n_effectSetup (s : State) : value (effectSetup s) .n = value s .n := rfl
@[simp] theorem value_a_effectSetup (s : State) : value (effectSetup s) .a = value s .a := rfl
@[simp] theorem value_b_effectSetup (s : State) : value (effectSetup s) .b = value s .b := rfl
@[simp] theorem value_e_effectSetup (s : State) : value (effectSetup s) .e = value s .e := rfl
@[simp] theorem value_res_effectSetup (s : State) : value (effectSetup s) .res = value s .res := rfl
@[simp] theorem value_rr_effectSetup (s : State) : value (effectSetup s) .rr = limbsValue (limbsOf s.nw (modN (2 ^ (2 * width s)) (value s .n))) := rfl

/-! ## trialPassed -/

@[simp] theorem trialPassed_nw (s : State) : (trialPassed s).nw = s.nw := rfl
@[simp] theorem trialPassed_n (s : State) : (trialPassed s).n = s.n := rfl
@[simp] theorem trialPassed_a (s : State) : (trialPassed s).a = s.a := rfl
@[simp] theorem trialPassed_b (s : State) : (trialPassed s).b = s.b := rfl
@[simp] theorem trialPassed_e (s : State) : (trialPassed s).e = s.e := rfl
@[simp] theorem trialPassed_res (s : State) : (trialPassed s).res = s.res := rfl
@[simp] theorem trialPassed_rr (s : State) : (trialPassed s).rr = s.rr := rfl
@[simp] theorem trialPassed_ieDone (s : State) : (trialPassed s).ieDone = s.ieDone := rfl
@[simp] theorem trialPassed_ieErr (s : State) : (trialPassed s).ieErr = s.ieErr := rfl
@[simp] theorem trialPassed_busy (s : State) : (trialPassed s).busy = s.busy := rfl
@[simp] theorem trialPassed_done (s : State) : (trialPassed s).done = s.done := rfl
@[simp] theorem trialPassed_err (s : State) : (trialPassed s).err = s.err := rfl
@[simp] theorem trialPassed_wign (s : State) : (trialPassed s).wign = s.wign := rfl
@[simp] theorem trialPassed_modvalid (s : State) : (trialPassed s).modvalid = s.modvalid := rfl
@[simp] theorem trialPassed_ftPass (s : State) : (trialPassed s).ftPass = true := rfl
@[simp] theorem trialPassed_ftComposite (s : State) : (trialPassed s).ftComposite = s.ftComposite := rfl
@[simp] theorem trialPassed_ftPrime (s : State) : (trialPassed s).ftPrime = (s.ftPrime || (!s.ftComposite && decide (s.ftK.toNat ≤ (satSucc s.ftCount).toNat))) := rfl
@[simp] theorem trialPassed_errCode (s : State) : (trialPassed s).errCode = s.errCode := rfl
@[simp] theorem trialPassed_errOp (s : State) : (trialPassed s).errOp = s.errOp := rfl
@[simp] theorem trialPassed_ftK (s : State) : (trialPassed s).ftK = s.ftK := rfl
@[simp] theorem trialPassed_ftCount (s : State) : (trialPassed s).ftCount = satSucc s.ftCount := rfl
@[simp] theorem trialPassed_curOp (s : State) : (trialPassed s).curOp = s.curOp := rfl
@[simp] theorem trialPassed_inputs (s : State) : (trialPassed s).inputs = s.inputs := rfl
@[simp] theorem trialPassed_turn (s : State) : (trialPassed s).turn = s.turn := rfl
@[simp] theorem trialPassed_rdata (s : State) : (trialPassed s).rdata = s.rdata := rfl
@[simp] theorem width_trialPassed (s : State) : width (trialPassed s) = width s := rfl
@[simp] theorem bigReg_trialPassed (s : State) (r : BigName) : bigReg (trialPassed s) r = bigReg s r := by
  cases r <;> rfl
@[simp] theorem value_trialPassed (s : State) (r : BigName) : value (trialPassed s) r = value s r := by
  cases r <;> rfl

/-! ## foundComposite -/

@[simp] theorem foundComposite_nw (s : State) : (foundComposite s).nw = s.nw := rfl
@[simp] theorem foundComposite_n (s : State) : (foundComposite s).n = s.n := rfl
@[simp] theorem foundComposite_a (s : State) : (foundComposite s).a = s.a := rfl
@[simp] theorem foundComposite_b (s : State) : (foundComposite s).b = s.b := rfl
@[simp] theorem foundComposite_e (s : State) : (foundComposite s).e = s.e := rfl
@[simp] theorem foundComposite_res (s : State) : (foundComposite s).res = s.res := rfl
@[simp] theorem foundComposite_rr (s : State) : (foundComposite s).rr = s.rr := rfl
@[simp] theorem foundComposite_ieDone (s : State) : (foundComposite s).ieDone = s.ieDone := rfl
@[simp] theorem foundComposite_ieErr (s : State) : (foundComposite s).ieErr = s.ieErr := rfl
@[simp] theorem foundComposite_busy (s : State) : (foundComposite s).busy = s.busy := rfl
@[simp] theorem foundComposite_done (s : State) : (foundComposite s).done = s.done := rfl
@[simp] theorem foundComposite_err (s : State) : (foundComposite s).err = s.err := rfl
@[simp] theorem foundComposite_wign (s : State) : (foundComposite s).wign = s.wign := rfl
@[simp] theorem foundComposite_modvalid (s : State) : (foundComposite s).modvalid = s.modvalid := rfl
@[simp] theorem foundComposite_ftPass (s : State) : (foundComposite s).ftPass = false := rfl
@[simp] theorem foundComposite_ftComposite (s : State) : (foundComposite s).ftComposite = true := rfl
@[simp] theorem foundComposite_ftPrime (s : State) : (foundComposite s).ftPrime = false := rfl
@[simp] theorem foundComposite_errCode (s : State) : (foundComposite s).errCode = s.errCode := rfl
@[simp] theorem foundComposite_errOp (s : State) : (foundComposite s).errOp = s.errOp := rfl
@[simp] theorem foundComposite_ftK (s : State) : (foundComposite s).ftK = s.ftK := rfl
@[simp] theorem foundComposite_ftCount (s : State) : (foundComposite s).ftCount = s.ftCount := rfl
@[simp] theorem foundComposite_curOp (s : State) : (foundComposite s).curOp = s.curOp := rfl
@[simp] theorem foundComposite_inputs (s : State) : (foundComposite s).inputs = s.inputs := rfl
@[simp] theorem foundComposite_turn (s : State) : (foundComposite s).turn = s.turn := rfl
@[simp] theorem foundComposite_rdata (s : State) : (foundComposite s).rdata = s.rdata := rfl
@[simp] theorem width_foundComposite (s : State) : width (foundComposite s) = width s := rfl
@[simp] theorem bigReg_foundComposite (s : State) (r : BigName) : bigReg (foundComposite s) r = bigReg s r := by
  cases r <;> rfl
@[simp] theorem value_foundComposite (s : State) (r : BigName) : value (foundComposite s) r = value s r := by
  cases r <;> rfl

/-! ## foundSmallPrime -/

@[simp] theorem foundSmallPrime_nw (s : State) : (foundSmallPrime s).nw = s.nw := rfl
@[simp] theorem foundSmallPrime_n (s : State) : (foundSmallPrime s).n = s.n := rfl
@[simp] theorem foundSmallPrime_a (s : State) : (foundSmallPrime s).a = s.a := rfl
@[simp] theorem foundSmallPrime_b (s : State) : (foundSmallPrime s).b = s.b := rfl
@[simp] theorem foundSmallPrime_e (s : State) : (foundSmallPrime s).e = s.e := rfl
@[simp] theorem foundSmallPrime_res (s : State) : (foundSmallPrime s).res = s.res := rfl
@[simp] theorem foundSmallPrime_rr (s : State) : (foundSmallPrime s).rr = s.rr := rfl
@[simp] theorem foundSmallPrime_ieDone (s : State) : (foundSmallPrime s).ieDone = s.ieDone := rfl
@[simp] theorem foundSmallPrime_ieErr (s : State) : (foundSmallPrime s).ieErr = s.ieErr := rfl
@[simp] theorem foundSmallPrime_busy (s : State) : (foundSmallPrime s).busy = s.busy := rfl
@[simp] theorem foundSmallPrime_done (s : State) : (foundSmallPrime s).done = s.done := rfl
@[simp] theorem foundSmallPrime_err (s : State) : (foundSmallPrime s).err = s.err := rfl
@[simp] theorem foundSmallPrime_wign (s : State) : (foundSmallPrime s).wign = s.wign := rfl
@[simp] theorem foundSmallPrime_modvalid (s : State) : (foundSmallPrime s).modvalid = s.modvalid := rfl
@[simp] theorem foundSmallPrime_ftPass (s : State) : (foundSmallPrime s).ftPass = true := rfl
@[simp] theorem foundSmallPrime_ftComposite (s : State) : (foundSmallPrime s).ftComposite = s.ftComposite := rfl
@[simp] theorem foundSmallPrime_ftPrime (s : State) : (foundSmallPrime s).ftPrime = true := rfl
@[simp] theorem foundSmallPrime_errCode (s : State) : (foundSmallPrime s).errCode = s.errCode := rfl
@[simp] theorem foundSmallPrime_errOp (s : State) : (foundSmallPrime s).errOp = s.errOp := rfl
@[simp] theorem foundSmallPrime_ftK (s : State) : (foundSmallPrime s).ftK = s.ftK := rfl
@[simp] theorem foundSmallPrime_ftCount (s : State) : (foundSmallPrime s).ftCount = s.ftCount := rfl
@[simp] theorem foundSmallPrime_curOp (s : State) : (foundSmallPrime s).curOp = s.curOp := rfl
@[simp] theorem foundSmallPrime_inputs (s : State) : (foundSmallPrime s).inputs = s.inputs := rfl
@[simp] theorem foundSmallPrime_turn (s : State) : (foundSmallPrime s).turn = s.turn := rfl
@[simp] theorem foundSmallPrime_rdata (s : State) : (foundSmallPrime s).rdata = s.rdata := rfl
@[simp] theorem width_foundSmallPrime (s : State) : width (foundSmallPrime s) = width s := rfl
@[simp] theorem bigReg_foundSmallPrime (s : State) (r : BigName) : bigReg (foundSmallPrime s) r = bigReg s r := by
  cases r <;> rfl
@[simp] theorem value_foundSmallPrime (s : State) (r : BigName) : value (foundSmallPrime s) r = value s r := by
  cases r <;> rfl

/-! ## The registers by name -/

@[simp] theorem bigReg_n (s : State) : bigReg s .n = s.n := rfl
@[simp] theorem bigReg_a (s : State) : bigReg s .a = s.a := rfl
@[simp] theorem bigReg_b (s : State) : bigReg s .b = s.b := rfl
@[simp] theorem bigReg_e (s : State) : bigReg s .e = s.e := rfl
@[simp] theorem bigReg_res (s : State) : bigReg s .res = s.res := rfl
@[simp] theorem bigReg_rr (s : State) : bigReg s .rr = s.rr := rfl

/-- A STATUS write as one update: DONE, ERR with ERRINFO, and WIGN, each cleared by its own bit (10_state.md R35). -/
theorem writeStatus_eq (v : Word) (s : State) :
    writeStatus v s = { s with
      done := s.done && !v[1]
      err := s.err && !v[2]
      errCode := if v[2] then 0#8 else s.errCode
      errOp := if v[2] then 0#8 else s.errOp
      wign := s.wign && !v[3] } := by
  cases s
  by_cases h : v[2] = true
  · simp [writeStatus, h, clearDoneWign, acknowledgeError]
  · simp [writeStatus, h, clearDoneWign]

end Sys2Proof.Machine
end

