-- ==== Sys2Proof/Laws/Access.lean ====
section
/-! SUPPORT. The address map, and what a host access, a CMD write and a completion can do, each said once. -/

namespace Sys2Proof.Machine

/-! ## The address map (20_memory.md R71, R72) -/

theorem windowIndex_range (r : BigName) : 1 ≤ windowIndex r ∧ windowIndex r ≤ 6 := by cases r <;> decide

theorem windowOf_windowIndex (r : BigName) : windowOf (windowIndex r) = some r := by cases r <;> rfl

theorem windowIndex_of_windowOf {k : Nat} {r : BigName} (h : windowOf k = some r) : windowIndex r = k := by
  unfold windowOf at h
  split at h <;> simp_all [windowIndex] <;> (subst h; rfl)

/-- Word `i` of a big register is found at its window base + 4·i. -/
theorem locate_bigIndex {nw i : Nat} (hnw : nw ≤ Config.maxNW) (hi : i < nw) (r : BigName) :
    locate nw (bigIndex r i) = .big r i := by
  have hr := windowIndex_range r
  have h128 : nw ≤ 128 := hnw
  have hval : (bigIndex r i).toNat = 128 * windowIndex r + i := by
    rw [bigIndex, BitVec.toNat_ofNat, Nat.mod_eq_of_lt (by omega)]
  have hdiv : (128 * windowIndex r + i) / 128 = windowIndex r := by omega
  have hmod : (128 * windowIndex r + i) % 128 = i := by omega
  rw [locate, hval, hdiv, hmod, windowOf_windowIndex, if_neg (by omega)]
  exact if_pos hi

/-- Only word index 3 is CMD. -/
theorem locate_eq_cmd_iff (nw : Nat) (w : WordIndex) : locate nw w = .cmd ↔ w = cmdIndex := by
  constructor
  · intro h
    unfold locate at h
    split at h
    · rename_i hlt
      have : w.toNat = 3 := by
        unfold controlLoc at h
        split at h <;> simp_all
      exact BitVec.eq_of_toNat_eq this
    · split at h
      · split at h <;> simp at h
      · simp at h
  · rintro rfl; rfl

/-- A location that is a word of a big register has an index below NW. -/
theorem locate_eq_big {nw i : Nat} {w : WordIndex} {r : BigName} (h : locate nw w = .big r i) :
    i < nw ∧ w = bigIndex r i := by
  unfold locate at h
  split at h
  · unfold controlLoc at h
    split at h <;> simp at h
  · split at h
    · rename_i r' hr
      split at h
      · rename_i hlt
        obtain ⟨rfl, rfl⟩ : r' = r ∧ w.toNat % 128 = i := by simpa using h
        refine ⟨hlt, BitVec.eq_of_toNat_eq ?_⟩
        have hwi := windowIndex_of_windowOf hr
        rw [bigIndex, BitVec.toNat_ofNat, hwi, Nat.mod_eq_of_lt] <;> have := w.isLt <;> omega
      · simp at h
    · simp at h

/-! ## The life of a command (40_common.md R130 to R134) -/

/-- A command's step in the host's turn. -/
theorem runCommand_host {s : State} (h : s.turn = .host) (i : Instr) (check : State → Option ErrCode)
    (effect : State → State) : runCommand i check effect s = .next (writeCommand (opcode i) (check s) s) := by
  rw [runCommand, h]

/-- A command's step in the engine's turn. -/
theorem runCommand_engine {s : State} (h : s.turn = .engine) (i : Instr) (check : State → Option ErrCode)
    (effect : State → State) : runCommand i check effect s = .next (completeCommand (opcode i) effect s) := by
  rw [runCommand, h]

/-- The three outcomes of a CMD write, exactly one of which is taken (R130). -/
theorem writeCommand_cases (op : Byte) (verdict : Option ErrCode) (s : State) :
    (cmdLocked s = true ∧ writeCommand op verdict s = lockedWrite s) ∨
    (cmdLocked s = false ∧ ∃ c, verdict = some c ∧ writeCommand op verdict s = raiseError c op s) ∨
    (cmdLocked s = false ∧ verdict = none ∧ writeCommand op verdict s = acceptCommand op s) := by
  unfold writeCommand
  cases cmdLocked s <;> cases verdict <;> simp

theorem writeCommand_locked {s : State} (h : cmdLocked s = true) (op : Byte) (verdict : Option ErrCode) :
    writeCommand op verdict s = lockedWrite s := by simp [writeCommand, h]

theorem writeCommand_refused {s : State} (h : cmdLocked s = false) (op : Byte) (c : ErrCode) :
    writeCommand op (some c) s = raiseError c op s := by simp [writeCommand, h]

theorem writeCommand_accepted {s : State} (h : cmdLocked s = false) (op : Byte) :
    writeCommand op none s = acceptCommand op s := by simp [writeCommand, h]

/-- A completion that is enabled. -/
theorem completeCommand_inFlight {s : State} {op : Byte} (hb : s.busy = true) (hop : s.curOp = op)
    (effect : State → State) : completeCommand op effect s = finishCommand (effect s) := by
  simp [completeCommand, hb, hop]

/-- Where the completion is not enabled the engine has no step (R134). -/
theorem completeCommand_cases (op : Byte) (effect : State → State) (s : State) :
    (s.busy = true ∧ s.curOp = op ∧ completeCommand op effect s = finishCommand (effect s)) ∨
    (¬(s.busy = true ∧ s.curOp = op) ∧ completeCommand op effect s = s) := by
  by_cases h : s.busy = true ∧ s.curOp = op
  · exact .inl ⟨h.1, h.2, completeCommand_inFlight h.1 h.2 effect⟩
  · refine .inr ⟨h, ?_⟩
    rw [completeCommand, if_neg]
    simpa using h

/-- The check of a command, as one function of the command: what `exec` uses in its host's turn. -/
def checkOf : Instr → State → Option ErrCode
  | .nop => noCheck
  | .setup => checkSetup
  | .montmul => checkMontmul
  | .tomont => setupCheck
  | .frommont => setupCheck
  | .modexp => setupCheck
  | .fermat => checkFermat
  | .ftinit => noCheck

/-- The effect of a command at its completion, as one function of the command. -/
def effectOf : Instr → State → State
  | .nop => id
  | .setup => effectSetup
  | .montmul => effectMontmul
  | .tomont => effectTomont
  | .frommont => effectFrommont
  | .modexp => effectModexp
  | .fermat => effectFermat
  | .ftinit => clearFermat

/-- Every command's meaning is the shared life of a command with its own check and effect. -/
theorem exec_eq_runCommand (i : Instr) (s : State) : exec i s = runCommand i (checkOf i) (effectOf i) s := by
  cases i <;> rfl

/-- A command passes its checks exactly where its rule says so (40_common.md R133). -/
theorem checkOf_eq_none_iff (i : Instr) (s : State) : checkOf i s = none ↔ Admitted s i := by
  cases i
  · simp [checkOf, noCheck, Admitted]
  · by_cases h : value s .n % 2 = 1 <;> simp [checkOf, checkSetup, Admitted, isOdd, h]
  · simp only [checkOf, checkMontmul, Admitted]
    cases s.modvalid
    · simp
    · by_cases h : value s .n ≤ value s .a ∨ value s .n ≤ value s .b
      · simp only [if_true, h]; simp; omega
      · simp only [if_true, h]; simp; omega
  · cases h : s.modvalid <;> simp [checkOf, setupCheck, Admitted, h]
  · cases h : s.modvalid <;> simp [checkOf, setupCheck, Admitted, h]
  · cases h : s.modvalid <;> simp [checkOf, setupCheck, Admitted, h]
  · simp only [checkOf, checkFermat, Admitted]
    by_cases h3 : value s .n ≤ 3
    · simp [h3]
    · simp only [h3, if_false, false_or]
      by_cases hodd : value s .n % 2 = 1
      · have hodd' : isOdd (value s .n) = true := by simp [isOdd, hodd]
        cases hv : s.modvalid
        · simp [hodd']
        · by_cases hr : value s .a = 0 ∨ value s .n ≤ value s .a
          · simp only [hodd', hr]; simp; omega
          · simp only [hodd', hr]; simp; omega
      · have hodd' : isOdd (value s .n) = false := by simp [isOdd]; omega
        simp [hodd', hodd]
  · simp [checkOf, noCheck, Admitted]

/-! ## Host writes (20_memory.md R75) -/

/-- Everything a write to a location can do: set WIGN, change CTRL, change the W1C bits with ERRINFO, store FT_K, refuse an
illegal command value, store a word of an operand, or nothing. -/
theorem writeLoc_cases (l : Loc) (v : Word) (s : State) :
    writeLoc l v s = s ∨
    (((l = .cmd ∧ cmdLocked s = true) ∨ (s.busy = true ∧ (l = .ftK ∨ ∃ r i, l = .big r i ∧ isOperand r = true))) ∧
      writeLoc l v s = lockedWrite s) ∨
    (l = .ctrl ∧ writeLoc l v s = writeCtrl v s) ∨
    (l = .status ∧ writeLoc l v s = writeStatus v s) ∨
    (l = .cmd ∧ cmdLocked s = false ∧ writeLoc l v s = raiseError .illegalCmd (opcodeField v) s) ∨
    (l = .ftK ∧ s.busy = false ∧ writeLoc l v s = { s with ftK := v }) ∨
    (∃ r i, l = .big r i ∧ isOperand r = true ∧ s.busy = false ∧ writeLoc l v s = storeBig r i v s) := by
  cases l with
  | cmd =>
    rcases writeCommand_cases (opcodeField v) (some .illegalCmd) s with ⟨hl, h⟩ | ⟨hl, c, hc, h⟩ | ⟨_, hc, _⟩
    · exact .inr (.inl ⟨.inl ⟨rfl, hl⟩, h⟩)
    · obtain rfl : ErrCode.illegalCmd = c := by simpa using hc
      exact .inr (.inr (.inr (.inr (.inl ⟨rfl, hl, h⟩))))
    · simp at hc
  | ftK =>
    cases hb : s.busy
    · exact .inr (.inr (.inr (.inr (.inr (.inl ⟨rfl, rfl, by simp [writeLoc, hb]⟩)))))
    · exact .inr (.inl ⟨.inr ⟨rfl, .inl rfl⟩, by simp [writeLoc, hb]⟩)
  | big r i =>
    cases hr : isOperand r
    · refine .inl ?_
      cases r <;> simp_all [writeLoc, isOperand, storeBig]
    · cases hb : s.busy
      · exact .inr (.inr (.inr (.inr (.inr (.inr ⟨r, i, rfl, hr, rfl, by simp [writeLoc, hb]⟩)))))
      · exact .inr (.inl ⟨.inr ⟨rfl, .inr ⟨r, i, rfl, hr⟩⟩, by simp [writeLoc, hr, hb]⟩)
  | ctrl => exact .inr (.inr (.inl ⟨rfl, rfl⟩))
  | status => exact .inr (.inr (.inr (.inl ⟨rfl, rfl⟩)))
  | id => exact .inl rfl
  | cfg => exact .inl rfl
  | errinfo => exact .inl rfl
  | ftCount => exact .inl rfl
  | reserved => exact .inl rfl

end Sys2Proof.Machine
end

