-- ==== Sys2Proof/Laws/Arith.lean ====
section
/-! SUPPORT. What the integer functions of Machine/Arith.lean compute, one lemma for each. -/

namespace Sys2Proof.Machine

theorem isOdd_iff (x : Nat) : isOdd x = true ↔ x % 2 = 1 := by simp [isOdd]

theorem isOdd_eq_false_iff (x : Nat) : isOdd x = false ↔ x % 2 = 0 := by
  simp only [isOdd, beq_eq_false_iff_ne]; omega

theorem modN_eq {n : Nat} (h : n ≠ 0) (x : Nat) : modN x n = x % n := if_neg h

theorem modN_lt {n : Nat} (h : n ≠ 0) (x : Nat) : modN x n < n := by
  rw [modN_eq h]; exact Nat.mod_lt _ (Nat.pos_of_ne_zero h)

theorem powModBits_eq (k a e n : Nat) (h : e < 2 ^ k) : powModBits k a e n = a ^ e % n := by
  induction k generalizing a e with
  | zero =>
    obtain rfl : e = 0 := by simpa using h
    simp [powModBits]
  | succ k ih =>
    have hsq : (a * a % n) ^ (e / 2) % n = a ^ (2 * (e / 2)) % n := by
      rw [← Nat.pow_mod, pow_mul, pow_two]
    have hrec : powModBits k (a * a % n) (e / 2) n = a ^ (2 * (e / 2)) % n := by
      rw [ih _ _ (by rw [pow_succ] at h; omega), hsq]
    rw [powModBits, hrec]
    split
    · rw [Nat.mul_mod_mod, ← pow_succ']; congr 2; omega
    · congr 2; omega

/-- The squaring method computes the power of R12 (42_modexp.md R181, 93_implementation_defined.md G5). -/
theorem powMod_eq (a e n : Nat) : powMod a e n = a ^ e % n := powModBits_eq _ _ _ _ Nat.lt_log2_self

/-- `ModExp(a, e, n) = (a^e) mod n` (00_scope.md R12). -/
theorem modExp_eq {n : Nat} (h : n ≠ 0) (a e : Nat) : modExp a e n = a ^ e % n := by
  rw [modExp, if_neg h, powMod_eq]

theorem ne_zero_of_odd {n : Nat} (h : n % 2 = 1) : n ≠ 0 := by rintro rfl; simp at h

/-- The radix is invertible modulo an odd modulus (41_montgomery.md R150). -/
theorem coprime_two_pow {n : Nat} (h : n % 2 = 1) (w : Nat) : Nat.Coprime (2 ^ w) n :=
  Nat.Coprime.pow_left w (by rw [Nat.coprime_two_left]; exact Nat.odd_iff.mpr h)

theorem rInv_lt {n : Nat} (h : n % 2 = 1) (w : Nat) : rInv w n < n := by
  rw [rInv, if_pos ((isOdd_iff n).2 h), powMod_eq]
  exact Nat.mod_lt _ (Nat.pos_of_ne_zero (ne_zero_of_odd h))

/-- `Rinv(n)` is the inverse of the radix modulo an odd n (00_scope.md R11 `inv`, R12). -/
theorem rInv_spec {n : Nat} (h : n % 2 = 1) (w : Nat) : 2 ^ w * rInv w n ≡ 1 [MOD n] := by
  have hinv : 2 * ((n + 1) / 2) ≡ 1 [MOD n] := by
    have : 2 * ((n + 1) / 2) = 1 + n := by omega
    rw [this]; exact Nat.add_modEq_right
  rw [rInv, if_pos ((isOdd_iff n).2 h), powMod_eq]
  calc 2 ^ w * (((n + 1) / 2) ^ w % n) ≡ 2 ^ w * ((n + 1) / 2) ^ w [MOD n] :=
        Nat.ModEq.mul_left _ (Nat.mod_modEq _ _)
    _ = (2 * ((n + 1) / 2)) ^ w := (mul_pow _ _ _).symm
    _ ≡ 1 ^ w [MOD n] := hinv.pow w
    _ = 1 := one_pow w

/-- The radix cancels modulo an odd modulus. -/
theorem radix_cancel {n w x y : Nat} (h : n % 2 = 1) (hxy : 2 ^ w * x ≡ 2 ^ w * y [MOD n]) : x ≡ y [MOD n] :=
  Nat.ModEq.cancel_left_of_coprime (by simpa using (coprime_two_pow h w).symm) hxy

theorem montMul_eq {n : Nat} (h : n % 2 = 1) (w a b : Nat) : montMul w a b n = a * b * rInv w n % n :=
  modN_eq (ne_zero_of_odd h) _

theorem montMul_lt {n : Nat} (h : n % 2 = 1) (w a b : Nat) : montMul w a b n < n :=
  modN_lt (ne_zero_of_odd h) _

/-- The Montgomery product times the radix is the product (41_montgomery.md R150). -/
theorem radix_mul_montMul {n : Nat} (h : n % 2 = 1) (w a b : Nat) :
    2 ^ w * montMul w a b n ≡ a * b [MOD n] := by
  rw [montMul_eq h]
  calc 2 ^ w * (a * b * rInv w n % n) ≡ 2 ^ w * (a * b * rInv w n) [MOD n] :=
        Nat.ModEq.mul_left _ (Nat.mod_modEq _ _)
    _ = a * b * (2 ^ w * rInv w n) := by ring
    _ ≡ a * b * 1 [MOD n] := (rInv_spec h w).mul_left _
    _ = a * b := mul_one _

/-- The Montgomery product is the one number below n with that property. -/
theorem eq_montMul_of_radix_mul {n w a b x : Nat} (h : n % 2 = 1) (hx : x < n)
    (hmul : 2 ^ w * x ≡ a * b [MOD n]) : x = montMul w a b n := by
  have := radix_cancel h (hmul.trans (radix_mul_montMul h w a b).symm)
  rwa [Nat.ModEq, Nat.mod_eq_of_lt hx, Nat.mod_eq_of_lt (montMul_lt h w a b)] at this

theorem montMul_comm (w a b n : Nat) : montMul w a b n = montMul w b a n := by
  rw [montMul, montMul, Nat.mul_comm a b]

end Sys2Proof.Machine
end

