-- ==== Sys2Proof/Laws/Flags.lean ====
section
/-! SUPPORT. The saturating count and the bits of a status word. -/

namespace Sys2Proof.Machine

/-- `sat32` as an integer (00_scope.md R11). Cite it: unfolding `satSucc` leaves large numerals in the goal. -/
theorem satSucc_toNat (c : Word) : (satSucc c).toNat = min (c.toNat + 1) (2 ^ 32 - 1) := by
  rw [satSucc, BitVec.toNat_ofNat, Nat.mod_eq_of_lt]
  omega

/-- A count below the largest is incremented. -/
theorem satSucc_toNat_of_lt {c : Word} (h : c.toNat + 1 < 2 ^ 32) : (satSucc c).toNat = c.toNat + 1 := by
  rw [satSucc_toNat, Nat.min_eq_left (Nat.le_sub_one_of_lt h)]

/-- Bit `j` of a word with one flag at bit `k`. -/
theorem flagAt_getLsbD {k : Nat} (hk : k < 32) (f : Bool) (j : Nat) : (flagAt k f).getLsbD j = (f && decide (j = k)) := by
  unfold flagAt
  cases f
  · simp
  · simp only [if_true, BitVec.getLsbD_shiftLeft, BitVec.getLsbD_one, Bool.true_and]
    rw [Bool.eq_iff_iff]
    simp
    omega

/-- The same for a bit index in range. -/
theorem flagAt_getElem {k j : Nat} (hk : k < 32) (hj : j < 32) (f : Bool) : (flagAt k f)[j] = (f && decide (j = k)) := by
  rw [← BitVec.getLsbD_eq_getElem, flagAt_getLsbD hk]

/-- CFG as an integer, for a size in range (10_state.md R32). -/
theorem cfgWord_toNat {s : State} (h : s.nw ≤ Config.maxNW) : (cfgWord s).toNat = s.nw := by
  have : s.nw ≤ 128 := h
  rw [cfgWord, BitVec.toNat_append]
  simp
  omega

end Sys2Proof.Machine
end

