-- ==== Sys2Proof/Laws/PerInstr.lean ====
section
/-! SUPPORT. What holds of each command as syntax, one lemma for each constructor. -/

namespace Sys2Proof.Laws

/-- The command is well-formed, its CMD value is its opcode zero-extended, and it decodes to itself (30_encoding.md R103,
R105). -/
def RoundTrip.Statement (i : Instr) : Prop :=
  i.wellFormed = true ∧ (encode i).toNat = (opcode i).toNat ∧ decode (encode i) = .ok i

theorem RoundTrip.nop : RoundTrip.Statement .nop := ⟨rfl, rfl, rfl⟩
theorem RoundTrip.setup : RoundTrip.Statement .setup := ⟨rfl, rfl, rfl⟩
theorem RoundTrip.montmul : RoundTrip.Statement .montmul := ⟨rfl, rfl, rfl⟩
theorem RoundTrip.tomont : RoundTrip.Statement .tomont := ⟨rfl, rfl, rfl⟩
theorem RoundTrip.frommont : RoundTrip.Statement .frommont := ⟨rfl, rfl, rfl⟩
theorem RoundTrip.modexp : RoundTrip.Statement .modexp := ⟨rfl, rfl, rfl⟩
theorem RoundTrip.fermat : RoundTrip.Statement .fermat := ⟨rfl, rfl, rfl⟩
theorem RoundTrip.ftinit : RoundTrip.Statement .ftinit := ⟨rfl, rfl, rfl⟩

end Sys2Proof.Laws
end

