-- ==== Sys2Proof/Laws/Step.lean ====
section
/-! SUPPORT. What one step can do, said once; what every step keeps of the registers' sizes; runs of events. -/

namespace Sys2Proof.Machine

/-! ## The step, by the next event (00_scope.md R13, R14) -/

theorem step_read {s : State} {w : WordIndex} {rest : List Event} (h : s.inputs = .read w :: rest) :
    step s = .next (presentRead w (beginStep .host rest s)) := by
  simp only [step, fetch, h]

theorem step_write_command {s : State} {w : WordIndex} {v : Word} {rest : List Event} {i : Instr}
    (h : s.inputs = .write w v :: rest) (hw : locate s.nw w = .cmd) (hi : decode v = .ok i) :
    step s = exec i (beginStep .host rest s) := by
  simp only [step, fetch, h, hostWrite, beginStep_nw, hw, hi]

theorem step_write_other {s : State} {w : WordIndex} {v : Word} {rest : List Event}
    (h : s.inputs = .write w v :: rest) (hw : ¬(locate s.nw w = .cmd ∧ ∃ i, decode v = .ok i)) :
    step s = .next (writeLoc (locate s.nw w) v (beginStep .host rest s)) := by
  simp only [step, fetch, h, hostWrite, beginStep_nw]
  split
  · rename_i heq
    split at heq
    · rename_i h1 h2
      exact absurd ⟨h1, _, h2⟩ hw
    · simp at heq
  · rename_i heq
    split at heq
    · simp at heq
    · exact (Fetched.settled.inj heq).symm

/-- The engine has its turn where it is scheduled, and where nothing else is left to happen. -/
def EngineNext (s : State) : Prop := s.inputs = [] ∨ s.inputs.head? = some .engine

theorem fetch_engine {s : State} (h : EngineNext s) : fetch s = engineTurn (beginStep .engine s.inputs.tail s) := by
  unfold fetch
  rcases h with h | h
  · simp [h]
  · cases hs : s.inputs with
    | nil => rfl
    | cons ev rest =>
      obtain rfl : ev = .engine := by simpa [hs] using h
      rfl

theorem step_engine_idle {s : State} (h : EngineNext s) (hb : s.busy = false) :
    step s = .next (beginStep .engine s.inputs.tail s) := by
  rw [step, fetch_engine h, engineTurn]
  simp [hb]

theorem step_engine_busy {s : State} {i : Instr} (h : EngineNext s) (hb : s.busy = true)
    (hi : instrOfOpcode s.curOp = some i) : step s = exec i (beginStep .engine s.inputs.tail s) := by
  rw [step, fetch_engine h, engineTurn]
  simp [hb, hi]

theorem step_engine_undecodable {s : State} (h : EngineNext s) (hb : s.busy = true)
    (hi : instrOfOpcode s.curOp = none) : step s = .fault (.undecodableCommandInFlight s.curOp) := by
  rw [step, fetch_engine h, engineTurn]
  simp [hb, hi]

theorem step_reset {s : State} {rest : List Event} (h : s.inputs = .reset :: rest) :
    step s = .next (beginStep .engine rest (resetOf s.nw)) := by
  simp only [step, fetch, h]

@[simp] theorem instrOfOpcode_opcode (i : Instr) : instrOfOpcode (opcode i) = some i := by cases i <;> rfl

theorem opcode_of_instrOfOpcode {op : Byte} {i : Instr} (h : instrOfOpcode op = some i) : op = opcode i := by
  unfold instrOfOpcode at h
  split at h
  · simp_all [opcode]; subst h; rfl
  split at h
  · simp_all [opcode]; subst h; rfl
  split at h
  · simp_all [opcode]; subst h; rfl
  split at h
  · simp_all [opcode]; subst h; rfl
  split at h
  · simp_all [opcode]; subst h; rfl
  split at h
  · simp_all [opcode]; subst h; rfl
  split at h
  · simp_all [opcode]; subst h; rfl
  split at h
  · simp_all [opcode]; subst h; rfl
  simp at h

/-- Everything a step that goes on can do, guards included: a read, a dropped, refused or accepted command value, another host
write, a completion, a turn in which the engine has no step, or reset. -/
theorem step_next_cases {s t : State} (h : step s = .next t) :
    (∃ w rest, s.inputs = .read w :: rest ∧ t = presentRead w (beginStep .host rest s)) ∨
    (∃ w v rest i, s.inputs = .write w v :: rest ∧ locate s.nw w = .cmd ∧ decode v = .ok i ∧
      t = writeCommand (opcode i) (checkOf i (beginStep .host rest s)) (beginStep .host rest s)) ∨
    (∃ w v rest, s.inputs = .write w v :: rest ∧ ¬(locate s.nw w = .cmd ∧ ∃ i, decode v = .ok i) ∧
      t = writeLoc (locate s.nw w) v (beginStep .host rest s)) ∨
    (EngineNext s ∧ s.busy = true ∧ ∃ i, s.curOp = opcode i ∧
      t = finishCommand (effectOf i (beginStep .engine s.inputs.tail s))) ∨
    (EngineNext s ∧ s.busy = false ∧ t = beginStep .engine s.inputs.tail s) ∨
    (∃ rest, s.inputs = .reset :: rest ∧ t = beginStep .engine rest (resetOf s.nw)) := by
  have engine : EngineNext s →
      (s.busy = true ∧ ∃ i, s.curOp = opcode i ∧ t = finishCommand (effectOf i (beginStep .engine s.inputs.tail s))) ∨
      (s.busy = false ∧ t = beginStep .engine s.inputs.tail s) := by
    intro hn
    cases hb : s.busy
    · rw [step_engine_idle hn hb] at h
      exact .inr ⟨rfl, (Host.Outcome.next.inj h).symm⟩
    · cases hi : instrOfOpcode s.curOp with
      | none => rw [step_engine_undecodable hn hb hi] at h; cases h
      | some i =>
        have hop := opcode_of_instrOfOpcode hi
        rw [step_engine_busy hn hb hi, exec_eq_runCommand, runCommand_engine rfl,
          completeCommand_inFlight (by simp [hb]) (by simp [hop])] at h
        exact .inl ⟨rfl, i, hop, (Host.Outcome.next.inj h).symm⟩
  cases hs : s.inputs with
  | nil =>
    rcases engine (.inl hs) with ⟨hb, hx⟩ | ⟨hb, hx⟩
    · exact .inr (.inr (.inr (.inl ⟨.inl hs, hb, by simpa [hs] using hx⟩)))
    · exact .inr (.inr (.inr (.inr (.inl ⟨.inl hs, hb, by simpa [hs] using hx⟩))))
  | cons ev rest =>
    cases ev with
    | read w =>
      rw [step_read hs] at h
      exact .inl ⟨w, rest, rfl, (Host.Outcome.next.inj h).symm⟩
    | write w v =>
      by_cases hw : locate s.nw w = .cmd ∧ ∃ i, decode v = .ok i
      · obtain ⟨hw, i, hi⟩ := hw
        rw [step_write_command hs hw hi, exec_eq_runCommand, runCommand_host rfl] at h
        exact .inr (.inl ⟨w, v, rest, i, rfl, hw, hi, (Host.Outcome.next.inj h).symm⟩)
      · rw [step_write_other hs hw] at h
        exact .inr (.inr (.inl ⟨w, v, rest, rfl, hw, (Host.Outcome.next.inj h).symm⟩))
    | engine =>
      have hn : EngineNext s := .inr (by simp [hs])
      rcases engine hn with ⟨hb, hx⟩ | ⟨hb, hx⟩
      · exact .inr (.inr (.inr (.inl ⟨hn, hb, by simpa [hs] using hx⟩)))
      · exact .inr (.inr (.inr (.inr (.inl ⟨hn, hb, by simpa [hs] using hx⟩))))
    | reset =>
      rw [step_reset hs] at h
      exact .inr (.inr (.inr (.inr (.inr ⟨rest, rfl, (Host.Outcome.next.inj h).symm⟩))))

/-! ## Sizes of the registers -/

/-- `Sized`, register by register. -/
theorem sized_iff (s : State) : Sized s ↔ (1 ≤ s.nw ∧ s.nw ≤ Config.maxNW) ∧ s.n.length = s.nw ∧ s.a.length = s.nw ∧
    s.b.length = s.nw ∧ s.e.length = s.nw ∧ s.res.length = s.nw ∧ s.rr.length = s.nw := by
  constructor
  · intro h
    exact ⟨h.size, h.regs .n, h.regs .a, h.regs .b, h.regs .e, h.regs .res, h.regs .rr⟩
  · rintro ⟨hs, hn, ha, hb, he, hres, hrr⟩
    exact ⟨hs, fun r => by cases r <;> assumption⟩

theorem Sized.beginStep {s : State} (h : Sized s) (t : Agent) (rest : List Event) : Sized (beginStep t rest s) :=
  ⟨h.size, by simpa using h.regs⟩

theorem Sized.resetOf {nw : Nat} (h : 1 ≤ nw ∧ nw ≤ Config.maxNW) : Sized (resetOf nw) :=
  ⟨h, fun r => by cases r <;> exact zeroLimbs_length nw⟩

/-- A register below 2^W: every integer a sized state holds (00_scope.md R10). -/
theorem Sized.value_lt {s : State} (h : Sized s) (r : BigName) : value s r < 2 ^ width s := by
  have := limbsValue_lt (bigReg s r)
  rwa [h.regs r] at this

/-- Storing a word of a register keeps every register's size. -/
theorem Sized.storeBig {s : State} (h : Sized s) (r : BigName) (i : Nat) (v : Word) : Sized (storeBig r i v s) := by
  rw [sized_iff] at h ⊢
  cases r <;> simp [Machine.storeBig, h]

theorem Sized.setRes {s : State} (h : Sized s) (v : Nat) : Sized (setRes v s) := by
  rw [sized_iff] at h ⊢
  simp [h]

/-- Every completion keeps every register's size. -/
theorem Sized.effectOf {s : State} (h : Sized s) (i : Instr) : Sized (effectOf i s) := by
  cases i
  case nop => exact h
  case setup => rw [sized_iff] at h ⊢; simp [Machine.effectOf, h]
  case montmul => exact h.setRes _
  case tomont => exact h.setRes _
  case frommont => exact h.setRes _
  case modexp => exact h.setRes _
  case ftinit => rw [sized_iff] at h ⊢; simp [Machine.effectOf, h]
  case fermat =>
    rw [sized_iff] at h ⊢
    simp only [Machine.effectOf, effectFermat, fermatTrial]
    split
    · simp [h]
    split
    · simp [h]
    split <;> simp [h]

/-- A host write keeps every register's size. -/
theorem Sized.writeLoc {s : State} (h : Sized s) (l : Loc) (v : Word) : Sized (writeLoc l v s) := by
  rcases writeLoc_cases l v s with e | ⟨_, e⟩ | ⟨_, e⟩ | ⟨_, e⟩ | ⟨_, _, e⟩ | ⟨_, _, e⟩ | ⟨r, i, _, _, _, e⟩ <;> rw [e]
  · exact h
  · exact ⟨h.size, by simpa using h.regs⟩
  · exact ⟨h.size, by simpa using h.regs⟩
  · rw [sized_iff] at h ⊢; simpa [writeStatus_eq] using h
  · exact ⟨h.size, by simpa using h.regs⟩
  · rw [sized_iff] at h ⊢; exact h
  · exact h.storeBig r i v

/-- A CMD write keeps every register's size. -/
theorem Sized.writeCommand {s : State} (h : Sized s) (op : Byte) (verdict : Option ErrCode) :
    Sized (writeCommand op verdict s) := by
  rcases writeCommand_cases op verdict s with ⟨_, e⟩ | ⟨_, c, _, e⟩ | ⟨_, _, e⟩ <;> rw [e] <;>
    exact ⟨h.size, by simpa using h.regs⟩

/-- Every step keeps every register's size, in every instance: the canonical form of the register space. -/
theorem Sized.step {s t : State} (h : Sized s) (hst : step s = .next t) : Sized t := by
  rcases step_next_cases hst with ⟨w, rest, _, rfl⟩ | ⟨w, v, rest, i, _, _, _, rfl⟩ | ⟨w, v, rest, _, _, rfl⟩ |
    ⟨_, _, i, _, rfl⟩ | ⟨_, _, rfl⟩ | ⟨rest, _, rfl⟩
  · exact ⟨h.size, by simpa using h.regs⟩
  · exact (h.beginStep _ _).writeCommand _ _
  · exact (h.beginStep _ _).writeLoc _ _
  · have h' := (h.beginStep .engine s.inputs.tail).effectOf i
    exact ⟨h'.size, by simpa using h'.regs⟩
  · exact h.beginStep _ _
  · exact (Sized.resetOf h.size).beginStep _ _

/-! ## Runs of events -/

theorem core_run_zero (s : State) : Sys2Proof.core.run 0 s = .next s := rfl

theorem core_run_succ {k : Nat} {s t : State} (h : step s = .next t) :
    Sys2Proof.core.run (k + 1) s = Sys2Proof.core.run k t := by
  have h' : Sys2Proof.core.step s = .next t := h
  simp only [Host.Core.run, h']

/-- A run that goes on is a step that goes on and the rest of the run. -/
theorem core_run_succ_eq_next {k : Nat} {s u : State} (h : Sys2Proof.core.run (k + 1) s = .next u) :
    ∃ t, step s = .next t ∧ Sys2Proof.core.run k t = .next u := by
  simp only [Host.Core.run] at h
  split at h
  · rename_i t ht
    exact ⟨t, ht, h⟩
  · cases h
  · cases h

/-- Runs compose. -/
theorem core_run_add {j k : Nat} {s t : State} (h : Sys2Proof.core.run j s = .next t) :
    Sys2Proof.core.run (j + k) s = Sys2Proof.core.run k t := by
  induction j generalizing s with
  | zero =>
    obtain rfl : s = t := Host.Outcome.next.inj h
    rw [Nat.zero_add]
  | succ j ih =>
    obtain ⟨u, hu, hrun⟩ := core_run_succ_eq_next h
    rw [Nat.add_right_comm, core_run_succ hu]
    exact ih hrun

/-- A property that every step keeps holds at the end of every run that starts with it. -/
theorem core_run_induct {P : State → Prop} (hstep : ∀ s t, P s → step s = .next t → P t) {k : Nat} {s t : State}
    (hs : P s) (h : Sys2Proof.core.run k s = .next t) : P t := by
  induction k generalizing s with
  | zero =>
    obtain rfl : s = t := Host.Outcome.next.inj h
    exact hs
  | succ k ih =>
    obtain ⟨u, hu, hrun⟩ := core_run_succ_eq_next h
    exact ih (hstep _ _ hs hu) hrun

end Sys2Proof.Machine
end

