-- ==== Sys2Proof/Laws/Run.lean ====
section
/-! SUPPORT. Runs of lists of events: a step reads the head of the list only, so runs compose. -/

namespace Sys2Proof.Machine

/-- No check looks at what happens next. -/
theorem checkOf_withEvents (i : Instr) (es : List Event) (s : State) : checkOf i (withEvents es s) = checkOf i s := by
  cases i <;> rfl

/-- A CMD write neither looks at nor changes what happens next. -/
theorem writeCommand_withEvents (op : Byte) (c : Option ErrCode) (es : List Event) (s : State) :
    writeCommand op c (withEvents es s) = withEvents es (writeCommand op c s) := by
  rcases writeCommand_cases op c s with ⟨h, e⟩ | ⟨h, c', hc, e⟩ | ⟨h, hc, e⟩
  · rw [e, writeCommand_locked (s := withEvents es s) h]; rfl
  · rw [e, hc, writeCommand_refused (s := withEvents es s) h]; rfl
  · rw [e, hc, writeCommand_accepted (s := withEvents es s) h]; rfl

/-- No completion looks at or changes what happens next. -/
theorem effectOf_withEvents (i : Instr) (es : List Event) (s : State) :
    effectOf i (withEvents es s) = withEvents es (effectOf i s) := by
  cases i
  case fermat =>
    have hv : ∀ r, value (withEvents es s) r = value s r := by intro r; cases r <;> rfl
    simp only [effectOf, effectFermat, fermatTrial, hv]
    split
    · rfl
    split
    · rfl
    split <;> rfl
  all_goals rfl

/-- A host write neither looks at nor changes what happens next. -/
theorem writeLoc_withEvents (l : Loc) (v : Word) (es : List Event) (s : State) :
    writeLoc l v (withEvents es s) = withEvents es (writeLoc l v s) := by
  cases l with
  | cmd => exact writeCommand_withEvents (opcodeField v) (some .illegalCmd) es s
  | status => show writeStatus v (withEvents es s) = withEvents es (writeStatus v s); unfold writeStatus; split <;> rfl
  | ftK => simp only [writeLoc]; show (if s.busy = true then _ else _) = _; split <;> rfl
  | big r i =>
    simp only [writeLoc]
    show (if (isOperand r && s.busy) = true then _ else _) = _
    split
    · rfl
    · cases r <;> rfl
  | _ => rfl

/-- A step takes its event from the head of the list and never looks at the rest. -/
theorem step_withEvents (ev : Event) (es : List Event) (s : State) : step (withEvents (ev :: es) s) =
    match step (withEvents [ev] s) with
    | .next t => .next (withEvents es t)
    | .fault r => .fault r
    | .refused r => .refused r := by
  cases ev with
  | read w => rfl
  | reset => rfl
  | write w v =>
    by_cases hw : locate s.nw w = .cmd ∧ ∃ i, decode v = .ok i
    · obtain ⟨hw, i, hi⟩ := hw
      rw [step_write_command (s := withEvents (.write w v :: es) s) rfl hw hi,
        step_write_command (s := withEvents [.write w v] s) rfl hw hi,
        exec_eq_runCommand, runCommand_host rfl, exec_eq_runCommand, runCommand_host rfl]
      simp only
      rw [← writeCommand_withEvents, ← checkOf_withEvents i es (beginStep Agent.host [] (withEvents [Event.write w v] s))]
      rfl
    · rw [step_write_other (s := withEvents (.write w v :: es) s) rfl hw,
        step_write_other (s := withEvents [.write w v] s) rfl hw]
      simp only
      rw [← writeLoc_withEvents]; rfl
  | engine =>
    have h1 : EngineNext (withEvents (.engine :: es) s) := .inr rfl
    have h2 : EngineNext (withEvents [.engine] s) := .inr rfl
    cases hb : s.busy
    · rw [step_engine_idle h1 hb, step_engine_idle h2 hb]; rfl
    · cases hi : instrOfOpcode s.curOp with
      | none => rw [step_engine_undecodable h1 hb hi, step_engine_undecodable h2 hb hi]; rfl
      | some i =>
        have hop := opcode_of_instrOfOpcode hi
        rw [step_engine_busy h1 hb hi, step_engine_busy h2 hb hi, exec_eq_runCommand, runCommand_engine rfl,
          completeCommand_inFlight (by simpa [withEvents] using hb) (by simpa [withEvents] using hop),
          exec_eq_runCommand, runCommand_engine rfl,
          completeCommand_inFlight (by simpa [withEvents] using hb) (by simpa [withEvents] using hop)]
        simp only
        have : beginStep .engine (withEvents (Event.engine :: es) s).inputs.tail (withEvents (.engine :: es) s) =
            withEvents es (beginStep .engine (withEvents [Event.engine] s).inputs.tail (withEvents [.engine] s)) := rfl
        rw [this, effectOf_withEvents]; rfl

theorem runEvents_nil (s : State) : runEvents [] s = .next (withEvents [] s) := rfl

/-- A run starts with its own list, whatever the state held. -/
theorem runEvents_withEvents (es fs : List Event) (s : State) : runEvents es (withEvents fs s) = runEvents es s := rfl

/-- A run is its first event's step and the run of the rest. -/
theorem runEvents_cons {ev : Event} {es : List Event} {s t : State} (h : step (withEvents [ev] s) = .next t) :
    runEvents (ev :: es) s = runEvents es t := by
  unfold runEvents
  rw [List.length_cons]
  exact core_run_succ (by rw [step_withEvents, h])

/-- A run that goes on has a first step that goes on. -/
theorem runEvents_cons_next {ev : Event} {es : List Event} {s u : State} (h : runEvents (ev :: es) s = .next u) :
    ∃ t, step (withEvents [ev] s) = .next t ∧ runEvents es t = .next u := by
  unfold runEvents at h
  rw [List.length_cons] at h
  obtain ⟨t, ht, hr⟩ := core_run_succ_eq_next h
  rw [step_withEvents] at ht
  split at ht
  · rename_i t' ht'
    cases ht
    exact ⟨t', ht', hr⟩
  · cases ht
  · cases ht

/-- Runs compose. -/
theorem runEvents_append {es fs : List Event} {s t : State} (h : runEvents es s = .next t) :
    runEvents (es ++ fs) s = runEvents fs t := by
  induction es generalizing s with
  | nil => cases h; rfl
  | cons ev es ih =>
    obtain ⟨u, hu, hr⟩ := runEvents_cons_next h
    rw [List.cons_append, runEvents_cons hu]
    exact ih hr

/-- The list is used up at the end of a run. -/
theorem runEvents_inputs {es : List Event} {s t : State} (h : runEvents es s = .next t) : t.inputs = [] := by
  induction es generalizing s with
  | nil => cases h; rfl
  | cons ev es ih =>
    obtain ⟨v, _, hv⟩ := runEvents_cons_next h
    exact ih hv

/-- A property that every step keeps, and that does not look at what happens next, holds at the end of a run. -/
theorem runEvents_induct {P : State → Prop} (hP : ∀ es s, P s → P (withEvents es s))
    (hstep : ∀ s t, P s → step s = .next t → P t) {es : List Event} {s t : State} (hs : P s)
    (h : runEvents es s = .next t) : P t := core_run_induct hstep (hP es s hs) h

/-- One event: the write of a word of an operand register where the engine is idle. -/
theorem step_storeWord {s : State} (hnw : s.nw ≤ Config.maxNW) (hb : s.busy = false) {r : BigName} {i : Nat}
    (hi : i < s.nw) (hr : isOperand r = true) (v : Word) :
    step (withEvents [.write (bigIndex r i) v] s) = .next (storeBig r i v (beginStep .host [] s)) := by
  have hl : locate (withEvents [.write (bigIndex r i) v] s).nw (bigIndex r i) = .big r i := locate_bigIndex hnw hi r
  rw [step_write_other rfl (by rw [hl]; simp), hl]
  simp [writeLoc, hr, withEvents, hb, beginStep]

end Sys2Proof.Machine
end

