-- ==== Sys2Proof/Tests/Slice0.lean ====
section
/-! SUPPORT. Small tests: ill-formed terms refused, words decoded, one step of each command with values from
95_test_vectors.md, and for every statement with hypotheses states that meet them. -/

namespace Sys2Proof.Tests

open Sys2Proof Sys2Proof.Machine

/-! ## Small states: instances of one word -/

/-- One-word registers, MODVALID = 0, the host's turn. -/
def idle (n a b e : Word) : State := { resetOf 1 with n := [n], a := [a], b := [b], e := [e], turn := .host }

/-- The same after SETUP: MODVALID = 1 and RR = 2^64 mod N. -/
def ready (n a b e : Word) : State :=
  { idle n a b e with rr := limbsOf 1 (2 ^ 64 % n.toNat), modvalid := true }

/-- Command `i` in flight in a state, the engine's turn. -/
def inFlight (i : Instr) (s : State) : State := { s with turn := .engine, busy := true, curOp := opcode i }

/-- What the next state holds, or a default where the step stops. -/
def after {α : Type} (d : α) (f : State → α) : Host.Outcome State Fault Refusal → α
  | .next s => f s
  | .fault _ => d
  | .refused _ => d

/-- The next state, or reset where the step stops. -/
def nextOf : Host.Outcome State Fault Refusal → State := after State.reset id

/-- RES of the next state. -/
def resAfter (o : Host.Outcome State Fault Refusal) : Limbs := after [] State.res o

/-- STATUS of the next state. -/
def statusAfter (o : Host.Outcome State Fault Refusal) : Word := after 0#32 statusWord o

/-- ERRINFO of the next state. -/
def errinfoAfter (o : Host.Outcome State Fault Refusal) : Word := after 0#32 errinfoWord o

/-! ## WellFormed: an ill-formed term for each check -/

theorem test_wf_commands : [Instr.nop, .setup, .montmul, .tomont, .frommont, .modexp, .fermat, .ftinit].all
    Instr.wellFormed = true := by decide
theorem test_wf_addr_misaligned : addrWellFormed 0x002 = false := by decide
theorem test_wf_addr_beyond : addrWellFormed 0x1000 = false := by decide
theorem test_wf_addr_last : addrWellFormed 0xFFC = true := by decide
theorem test_wf_size_zero : sizeWellFormed 0 = false := by decide
theorem test_wf_size_beyond : sizeWellFormed 129 = false := by decide
theorem test_wf_size_bounds : sizeWellFormed 1 = true ∧ sizeWellFormed 128 = true := by decide
theorem test_wf_value_beyond : valueWellFormed 1 0x100000000 = false := by decide
theorem test_wf_value_largest : valueWellFormed 1 0xFFFFFFFF = true := by decide
theorem test_wf_script_wr : (ScriptLine.wr 0x006 0#32).wellFormed 1 = false := by decide
theorem test_wf_script_rd : (ScriptLine.rd 0x1000).wellFormed 1 = false := by decide
theorem test_wf_script_expect : (ScriptLine.expect 0x011 0#32 0#32).wellFormed 1 = false := by decide
theorem test_wf_script_load_readonly : (ScriptLine.load .res 0).wellFormed 1 = false := by decide
theorem test_wf_script_load_value : (ScriptLine.load .n 0x100000000).wellFormed 1 = false := by decide
theorem test_wf_script_move : (ScriptLine.move .rr .a).wellFormed 1 = false := by decide
theorem test_wf_script_expectBig : (ScriptLine.expectBig .rr 0x100000000).wellFormed 1 = false := by decide

/-! ## Decoding: words written out from the encoding column of 30_encoding.md R103 -/

theorem test_decode_nop : decode 0b00000000000000000000000000000000#32 = .ok .nop := rfl
theorem test_decode_setup : decode 0b00000000000000000000000000000001#32 = .ok .setup := rfl
theorem test_decode_montmul : decode 0b00000000000000000000000000000010#32 = .ok .montmul := rfl
theorem test_decode_tomont : decode 0b00000000000000000000000000000011#32 = .ok .tomont := rfl
theorem test_decode_frommont : decode 0b00000000000000000000000000000100#32 = .ok .frommont := rfl
theorem test_decode_modexp : decode 0b00000000000000000000000000000101#32 = .ok .modexp := rfl
theorem test_decode_fermat : decode 0b00000000000000000000000000000110#32 = .ok .fermat := rfl
theorem test_decode_ftinit : decode 0b00000000000000000000000000000111#32 = .ok .ftinit := rfl
theorem test_decode_unknown_opcode : decode 0x00000008#32 = .error .unknownOpcode := rfl
theorem test_decode_last_opcode : decode 0x000000FF#32 = .error .unknownOpcode := rfl
theorem test_decode_reserved_low : decode 0x00000106#32 = .error .reservedBitsSet := rfl
theorem test_decode_reserved_high : decode 0x80000000#32 = .error .reservedBitsSet := rfl
theorem test_decodeBytes_modexp : decodeBytes [0x05#8, 0x00#8, 0x00#8, 0x00#8, 0xAA#8] = .ok (.modexp, [0xAA#8]) := rfl
theorem test_decodeBytes_order : decodeBytes [0x00#8, 0x00#8, 0x00#8, 0x05#8] = .error .reservedBitsSet := rfl
theorem test_decodeBytes_short : decodeBytes [0x05#8, 0x00#8, 0x00#8] = .error .truncated := rfl
theorem test_decodeTableWord_fermat : decodeTableWord 32 6 = some .fermat := rfl
theorem test_withFetchWord_nop : errinfoAfter (step (State.reset.withFetchWord 32 0)) = 0#32 ∧
    (nextOf (step (State.reset.withFetchWord 32 0))).busy = true := ⟨rfl, rfl⟩

/-! ## The commands, each in one step: expected values from 95_test_vectors.md, named by the vector -/

/-- V-SU-1, V-SU-9. -/
theorem test_setup_rr : after [] State.rr (exec .setup (inFlight .setup (idle 97#32 0#32 0#32 0#32))) = [61#32] ∧
    after [] State.rr (exec .setup (inFlight .setup (idle 0xFFFFFFFB#32 0#32 0#32 0#32))) = [25#32] := by decide
/-- V-SU-11. -/
theorem test_setup_even : errinfoAfter (exec .setup (idle 100#32 0#32 0#32 0#32)) = 0x00000102#32 := by decide
/-- V-MM-1, V-MM-3, V-MM-7, V-MM-8. -/
theorem test_montmul : resAfter (exec .montmul (inFlight .montmul (ready 97#32 5#32 7#32 0#32))) = [1#32] ∧
    resAfter (exec .montmul (inFlight .montmul (ready 97#32 96#32 96#32 0#32))) = [61#32] ∧
    resAfter (exec .montmul (inFlight .montmul (ready 3233#32 1#32 3232#32 0#32))) = [1937#32] ∧
    resAfter (exec .montmul (inFlight .montmul (ready 0xFFFFFFFB#32 0xFFFFFFFA#32 0xFFFFFFFA#32 0#32))) =
      [0xCCCCCCC9#32] := by decide
/-- V-MM-12, V-MM-14. -/
theorem test_montmul_refused : errinfoAfter (exec .montmul (ready 97#32 1#32 200#32 0#32)) = 0x00000204#32 ∧
    errinfoAfter (exec .montmul (idle 97#32 200#32 7#32 0#32)) = 0x00000203#32 := by decide
/-- V-TM-1, V-TM-5, V-TM-7. -/
theorem test_tomont : resAfter (exec .tomont (inFlight .tomont (ready 97#32 5#32 0#32 0#32))) = [78#32] ∧
    resAfter (exec .tomont (inFlight .tomont (ready 97#32 0xFFFFFFFF#32 0#32 0#32))) = [26#32] ∧
    resAfter (exec .tomont (inFlight .tomont (ready 3233#32 4000#32 0#32 0#32))) = [43#32] := by decide
/-- V-TM-10. -/
theorem test_tomont_refused : errinfoAfter (exec .tomont (idle 97#32 5#32 0#32 0#32)) = 0x00000303#32 := by decide
/-- V-FM-1, V-FM-8. -/
theorem test_frommont : resAfter (exec .frommont (inFlight .frommont (ready 97#32 78#32 0#32 0#32))) = [5#32] ∧
    resAfter (exec .frommont (inFlight .frommont (ready 3233#32 4000#32 0#32 0#32))) = [1501#32] := by decide
/-- V-FM-11. -/
theorem test_frommont_refused : errinfoAfter (exec .frommont (idle 91#32 5#32 0#32 0#32)) = 0x00000403#32 := by decide
/-- V-ME-1, V-ME-9, V-ME-11, V-ME-12, V-ME-16. -/
theorem test_modexp : resAfter (exec .modexp (inFlight .modexp (ready 3233#32 65#32 0#32 17#32))) = [2790#32] ∧
    resAfter (exec .modexp (inFlight .modexp (ready 3233#32 4000#32 0#32 17#32))) = [250#32] ∧
    resAfter (exec .modexp (inFlight .modexp (ready 97#32 0#32 0#32 0#32))) = [1#32] ∧
    resAfter (exec .modexp (inFlight .modexp (ready 1#32 5#32 0#32 0#32))) = [0#32] ∧
    resAfter (exec .modexp (inFlight .modexp (ready 0xFFFFFFFB#32 0xFFFFFFFF#32 0#32 0xFFFFFFFF#32))) = [1024#32] := by
  decide
/-- V-ME-19. -/
theorem test_modexp_refused : errinfoAfter (exec .modexp (idle 100#32 5#32 0#32 3#32)) = 0x00000503#32 := by decide
/-- V-FT-1, V-FT-11, V-FT-18, V-FT-24, V-FT-25: STATUS after the completion (for V-FT-24 and 25 from an idle state). -/
theorem test_fermat : statusAfter (exec .fermat (inFlight .fermat (ready 97#32 2#32 0#32 0#32))) = 0x00010212#32 ∧
    statusAfter (exec .fermat (inFlight .fermat (ready 91#32 2#32 0#32 0#32))) = 0x00020012#32 ∧
    resAfter (exec .fermat (inFlight .fermat (ready 91#32 2#32 0#32 0#32))) = [64#32] ∧
    statusAfter (exec .fermat (inFlight .fermat { ready 97#32 2#32 0#32 0#32 with ftK := 0#32 })) = 0x00050212#32 ∧
    statusAfter (exec .fermat (inFlight .fermat (idle 1#32 0#32 0#32 0#32))) = 0x00020102#32 ∧
    statusAfter (exec .fermat (inFlight .fermat (idle 2#32 0#32 0#32 0#32))) = 0x00050102#32 := by decide
/-- V-FT-32, V-FT-33, V-FT-31. -/
theorem test_fermat_refused : errinfoAfter (exec .fermat (idle 100#32 0#32 0#32 0#32)) = 0x00000602#32 ∧
    errinfoAfter (exec .fermat (idle 97#32 0#32 0#32 0#32)) = 0x00000603#32 ∧
    errinfoAfter (exec .fermat (ready 97#32 97#32 0#32 0#32)) = 0x00000605#32 := by decide
/-- V-FI-4: FT_PASS and FT_PRIME are cleared. -/
theorem test_ftinit : statusAfter (exec .ftinit (inFlight .ftinit
    { idle 2#32 0#32 0#32 0#32 with ftPass := true, ftPrime := true })) = 0x00000102#32 := by decide
/-- 40_common.md R138, its worked example. -/
theorem test_nop : statusAfter (exec .nop (inFlight .nop (resetOf 1))) = 0x00000102#32 := by decide
/-- V-ER-6: RSVD ≠ 0 with low byte 0x06. -/
theorem test_illegal_command :
    errinfoAfter (step (withEvents [.write 3#10 0x106#32] (resetOf 1))) = 0x00000601#32 := by decide
/-- V-ER-9: a write of 4 to STATUS acknowledges an error. -/
theorem test_acknowledge : statusAfter (step (withEvents [.write 4#10 4#32]
    { resetOf 1 with err := true, errCode := 2#8, errOp := 1#8 })) = 0x00000100#32 := by decide
/-- V-ER-12: a word of N written while a command is in flight. -/
theorem test_locked_write : after [] State.n (step (withEvents [.write 128#10 100#32]
    (inFlight .setup (idle 97#32 0#32 0#32 0#32)))) = [97#32] := by decide
/-- V-CM-22, V-CM-18: CTRL keeps bits 1:0, and is written while BUSY = 1. -/
theorem test_ctrl : after 0#32 (fun s => readWord s 2#10) (step (withEvents [.write 2#10 0xFFFFFFFF#32] (resetOf 1))) = 3#32 ∧
    after 0#32 (fun s => readWord s 2#10) (step (withEvents [.write 2#10 3#32] (inFlight .nop (resetOf 1)))) = 3#32 := by
  decide
/-- 10_state.md R31, R32, R50: ID, CFG and STATUS of an instance of four words after reset. -/
theorem test_reset_reads : readWord (resetOf 4) 0#10 = 0x46454D31#32 ∧ readWord (resetOf 4) 1#10 = 4#32 ∧
    readWord (resetOf 4) 4#10 = 0x100#32 := by decide

/-! ## Witnesses: for every statement with hypotheses, states and operands that meet them, each clause at a boundary -/

/-- A one-word state with a write of `v` at word index `w` as the next event. -/
def writing (w : WordIndex) (v : Word) (s : State) : State := withEvents [.write w v] s

/-- The state after a list of events from the reset state of a one-word instance. -/
def reached (es : List Event) : State := nextOf (runEvents es (resetOf 1))

/-- A run of events that goes on leads to a reachable state. -/
theorem reachable_reached (es : List Event) (h : runEvents es (resetOf 1) = .next (reached es)) :
    Reachable (reached es) := ⟨1, es, es.length, rfl, h⟩

/-- LOAD N, 97; CMD SETUP; its completion; CMD MODEXP: a MODEXP in flight. -/
def modexpInFlight : List Event := loadEvents 1 .n 97 ++ [cmdEvent .setup, .engine, cmdEvent .modexp]

theorem witness_Reachable_modexp : Reachable (reached modexpInFlight) ∧ (reached modexpInFlight).busy = true ∧
    (reached modexpInFlight).curOp = 0x05#8 :=
  ⟨reachable_reached _ rfl, rfl, rfl⟩
theorem witness_Reachable_small_prime : Reachable (reached (loadEvents 1 .n 2)) ∧
    value (reached (loadEvents 1 .n 2)) .n = 2 ∧ Reachable (reached (loadEvents 1 .n 3)) ∧
    value (reached (loadEvents 1 .n 3)) .n = 3 :=
  ⟨reachable_reached _ rfl, rfl, reachable_reached _ rfl, rfl⟩
/-- MODVALID = 1 and ERR = 1 are reachable, so no item of R47 is empty. -/
theorem witness_ReachableStatesKeepR47 :
    Reachable (reached [.write 128#10 97#32, .write 3#10 1#32, .engine, .write 3#10 9#32]) ∧
    (reached [.write 128#10 97#32, .write 3#10 1#32, .engine, .write 3#10 9#32]).modvalid = true ∧
    (reached [.write 128#10 97#32, .write 3#10 1#32, .engine, .write 3#10 9#32]).errCode = 1#8 ∧
    (reached [.write 128#10 2#32, .write 3#10 6#32, .engine]).ftPrime = true :=
  ⟨reachable_reached _ rfl, rfl, rfl, rfl⟩

theorem sized_idle (n a b e : Word) : Sized (idle n a b e) := ⟨⟨Nat.le_refl 1, show 1 ≤ 128 by decide⟩, fun r => by cases r <;> rfl⟩
theorem sized_ready (n a b e : Word) : Sized (ready n a b e) :=
  ⟨⟨Nat.le_refl 1, show 1 ≤ 128 by decide⟩, fun r => by cases r <;> rfl⟩
theorem sized_inFlight {s : State} (h : Sized s) (i : Instr) : Sized (inFlight i s) :=
  ⟨h.size, fun r => by have := h.regs r; cases r <;> exact this⟩
/-- The largest instance. -/
theorem sized_largest : Sized (resetOf 128) := Sized.resetOf (by decide)

theorem inv_ready_3233 : BlockInv (ready 3233#32 65#32 0#32 17#32) :=
  { sized := sized_ready _ _ _ _
    busyErr := by decide
    busyDone := by decide
    validOdd := by decide
    invalidZero := by decide
    errCodeZero := by decide
    errOpZero := by decide
    errCodeRange := by decide
    primeComposite := by decide
    primePass := by decide
    smallPrimeClean := by decide
    inFlight := fun h => absurd h (by decide) }
theorem inv_setup_in_flight : BlockInv (inFlight .setup (ready 3233#32 65#32 0#32 17#32)) :=
  { sized := sized_inFlight (sized_ready _ _ _ _) .setup
    busyErr := by decide
    busyDone := by decide
    validOdd := by decide
    invalidZero := by decide
    errCodeZero := by decide
    errOpZero := by decide
    errCodeRange := by decide
    primeComposite := by decide
    primePass := by decide
    smallPrimeClean := by decide
    inFlight := fun _ => ⟨.setup, rfl, show value _ .n % 2 = 1 by decide⟩ }

/-! ### Encoding, steps -/

theorem witness_CommandWriteStepRunsItsCommand :
    WritesCmd (writing 3#10 5#32 (ready 97#32 5#32 0#32 3#32)) 5#32 [] ∧ decode 5#32 = .ok .modexp ∧
    decodeTableWord 32 7 = some .ftinit := ⟨rfl, rfl, rfl⟩
theorem witness_EngineTurnRunsTheCommandInFlight :
    (inFlight .fermat (ready 97#32 2#32 0#32 0#32)).inputs = [] ∧
    (inFlight .fermat (ready 97#32 2#32 0#32 0#32)).busy = true ∧
    (inFlight .fermat (ready 97#32 2#32 0#32 0#32)).curOp = opcode .fermat ∧
    (withEvents [.engine, .reset] (resetOf 1)).inputs.head? = some .engine ∧
    (withEvents [.engine, .reset] (resetOf 1)).busy = false := ⟨rfl, rfl, rfl, rfl, rfl⟩

/-! ### CMD writes -/

theorem witness_CommandWrite_dropped : WritesCmd (writing 3#10 9#32 (inFlight .nop (resetOf 1))) 9#32 [] ∧
    (writing 3#10 9#32 (inFlight .nop (resetOf 1))).busy = true ∧
    (writing 3#10 0#32 { resetOf 1 with err := true }).err = true := ⟨rfl, rfl, rfl⟩
theorem witness_CommandWrite_illegal : WritesCmd (writing 3#10 8#32 (resetOf 1)) 8#32 [] ∧
    (writing 3#10 8#32 (resetOf 1)).busy = false ∧ (writing 3#10 8#32 (resetOf 1)).err = false ∧
    8 ≤ (8#32 : Word).toNat ∧ 8 ≤ (0xFFFFFFFF#32 : Word).toNat := by decide
/-- A write of `v` to CMD is next, CMD is not locked, and `p` holds: the hypotheses of one refusing clause together. -/
abbrev FreeCmd (v : Word) (s : State) (p : State → Prop) : Prop :=
  WritesCmd (writing 3#10 v s) v [] ∧ (writing 3#10 v s).busy = false ∧ (writing 3#10 v s).err = false ∧
    p (writing 3#10 v s)

theorem witness_CommandWrite_setup : FreeCmd 1#32 (idle 100#32 0#32 0#32 0#32) (fun s => value s .n % 2 = 0) := by decide
theorem witness_CommandWrite_noSetup : FreeCmd 2#32 (resetOf 1) (fun s => s.modvalid = false) ∧
    FreeCmd 3#32 (resetOf 1) (fun s => s.modvalid = false) ∧ FreeCmd 4#32 (resetOf 1) (fun s => s.modvalid = false) ∧
    FreeCmd 5#32 (resetOf 1) (fun s => s.modvalid = false) := by decide
/-- A = N and B in range, then B = N and A in range. -/
theorem witness_CommandWrite_operandRange :
    FreeCmd 2#32 (ready 97#32 97#32 96#32 0#32) (fun s => s.modvalid = true ∧ value s .n ≤ value s .a) ∧
    FreeCmd 2#32 (ready 97#32 96#32 97#32 0#32) (fun s => s.modvalid = true ∧ value s .n ≤ value s .b) := by decide
/-- N = 4 and N = 5, the smallest of each parity; A = 0 and A = N. -/
theorem witness_CommandWrite_fermat :
    FreeCmd 6#32 (idle 4#32 1#32 0#32 0#32) (fun s => 4 ≤ value s .n ∧ value s .n % 2 = 0) ∧
    FreeCmd 6#32 (idle 5#32 1#32 0#32 0#32) (fun s => 4 ≤ value s .n ∧ value s .n % 2 = 1 ∧ s.modvalid = false) ∧
    FreeCmd 6#32 (ready 5#32 0#32 0#32 0#32)
      (fun s => 4 ≤ value s .n ∧ value s .n % 2 = 1 ∧ s.modvalid = true ∧ value s .a = 0) ∧
    FreeCmd 6#32 (ready 5#32 5#32 0#32 0#32)
      (fun s => 4 ≤ value s .n ∧ value s .n % 2 = 1 ∧ s.modvalid = true ∧ value s .n ≤ value s .a) := by decide
/-- FERMAT on N = 3, and MODEXP after SETUP. -/
theorem witness_CommandWrite_admitted :
    FreeCmd 6#32 (idle 3#32 0#32 0#32 0#32) (fun s => (6#32 : Word) = encode .fermat ∧ Admitted s .fermat) ∧
    FreeCmd 5#32 (ready 97#32 97#32 0#32 0#32) (fun s => (5#32 : Word) = encode .modexp ∧ Admitted s .modexp) :=
  ⟨⟨rfl, rfl, rfl, rfl, .inl (by decide)⟩, ⟨rfl, rfl, rfl, rfl, rfl⟩⟩
/-- Each command's own condition, at a boundary: A = B = N − 1 for MONTMUL, N = 3 and A = N − 1 for FERMAT. -/
theorem witness_AdmittedCommandIsAccepted : HostReady (ready 97#32 96#32 96#32 0#32) ∧
    Admitted (idle 0#32 0#32 0#32 0#32) .nop ∧ Admitted (idle 1#32 0#32 0#32 0#32) .setup ∧
    Admitted (ready 97#32 96#32 96#32 0#32) .montmul ∧ Admitted (ready 97#32 97#32 0#32 0#32) .tomont ∧
    Admitted (ready 97#32 97#32 0#32 0#32) .frommont ∧ Admitted (ready 97#32 97#32 0#32 0#32) .modexp ∧
    Admitted (idle 3#32 0#32 0#32 0#32) .fermat ∧ Admitted (ready 97#32 96#32 0#32 0#32) .fermat ∧
    Admitted (idle 0#32 0#32 0#32 0#32) .ftinit :=
  ⟨by decide, trivial, by simp [Admitted]; decide, by simp [Admitted]; decide, rfl, rfl, rfl,
    .inl (by decide), .inr (by decide), trivial⟩
theorem witness_AdmittedCommandIsAccepted_lock : (inFlight .nop (resetOf 1)).nw ≤ 128 ∧
    (inFlight .nop (resetOf 1)).busy = true ∧ (3#10 : WordIndex) ≠ 6#10 ∧ 0 < (resetOf 1).nw ∧
    (128#10 : WordIndex) = bigIndex .n 0 ∧ (639#10 : WordIndex) = bigIndex .e 127 ∧ 127 < (resetOf 128).nw := by decide

/-! ### The commands -/

theorem witness_HostReady : HostReady (idle 100#32 0#32 0#32 0#32) ∧ value (idle 100#32 0#32 0#32 0#32) .n % 2 = 0 ∧
    (idle 100#32 0#32 0#32 0#32).modvalid = false ∧ HostReady (ready 97#32 97#32 0#32 0#32) ∧
    value (ready 97#32 97#32 0#32 0#32) .n % 2 = 1 ∧ (ready 97#32 97#32 0#32 0#32).modvalid = true ∧
    value (ready 97#32 97#32 0#32 0#32) .n ≤ value (ready 97#32 97#32 0#32 0#32) .a ∧
    value (ready 97#32 96#32 96#32 0#32) .a < value (ready 97#32 96#32 96#32 0#32) .n ∧
    value (ready 97#32 96#32 96#32 0#32) .b < value (ready 97#32 96#32 96#32 0#32) .n := by decide
theorem witness_NopIsAcceptedAndChangesNothing : (idle 0#32 0#32 0#32 0#32).turn = .host ∧
    HostReady (idle 0#32 0#32 0#32 0#32) ∧ ({ idle 0#32 0#32 0#32 0#32 with err := true } : State).turn = .host ∧
    ({ idle 0#32 0#32 0#32 0#32 with err := true } : State).err = true ∧
    InFlight (inFlight .nop (idle 0#32 0#32 0#32 0#32)) .nop := by decide
/-- N = 1, the smallest odd modulus, and N = 2^32 − 1, the largest at this size, with every command in flight. -/
theorem witness_InFlight_odd (i : Instr) : InFlight (inFlight i (ready 1#32 0#32 0#32 0#32)) i ∧
    value (inFlight i (ready 1#32 0#32 0#32 0#32)) .n % 2 = 1 ∧ value (inFlight i (ready 1#32 0#32 0#32 0#32)) .n = 1 ∧
    value (inFlight i (ready 0xFFFFFFFF#32 0#32 0#32 0#32)) .n = 2 ^ width (resetOf 1) - 1 ∧
    Sized (inFlight i (ready 1#32 0#32 0#32 0#32)) :=
  ⟨⟨rfl, rfl, rfl⟩, rfl, rfl, rfl, sized_inFlight (sized_ready _ _ _ _) i⟩
/-- MODEXP at an even modulus, where no run leads but the statement speaks of it. -/
theorem witness_ModexpLeavesThePower : InFlight (inFlight .modexp (idle 2#32 1#32 0#32 1#32)) .modexp ∧
    value (inFlight .modexp (idle 2#32 1#32 0#32 1#32)) .n ≠ 0 := by decide
theorem witness_FermatSmallModulusVerdict :
    (HostReady (idle 3#32 0#32 0#32 0#32) ∧ value (idle 3#32 0#32 0#32 0#32) .n ≤ 3) ∧
    (InFlight (inFlight .fermat (idle 1#32 0#32 0#32 0#32)) .fermat ∧
      value (inFlight .fermat (idle 1#32 0#32 0#32 0#32)) .n ≤ 1) ∧
    value (inFlight .fermat (idle 2#32 0#32 0#32 0#32)) .n = 2 ∧
    value (inFlight .fermat (idle 3#32 0#32 0#32 0#32)) .n = 3 := by decide
/-- N = 4 and A = 1 passes, A = 3 does not; 97 with base 2 passes, 91 with base 2 does not. -/
theorem witness_FermatTrialTestsThePower :
    InFlight (inFlight .fermat (idle 4#32 1#32 0#32 0#32)) .fermat ∧
    4 ≤ value (inFlight .fermat (idle 4#32 1#32 0#32 0#32)) .n ∧ 1 ^ (4 - 1) % 4 = 1 ∧ 3 ^ (4 - 1) % 4 ≠ 1 ∧
    2 ^ (97 - 1) % 97 = 1 ∧ 2 ^ (91 - 1) % 91 ≠ 1 := by decide
theorem witness_CompletionFrame : (inFlight .fermat (idle 3#32 0#32 0#32 0#32)).turn = .engine ∧
    exec .fermat (inFlight .fermat (idle 3#32 0#32 0#32 0#32)) =
      .next (nextOf (exec .fermat (inFlight .fermat (idle 3#32 0#32 0#32 0#32)))) ∧
    locate 1 4#10 = .status ∧ locate 1 0x280#10 = .big .res 0 ∧ locate 1 0x300#10 = .big .rr 0 ∧
    locate 1 7#10 = .ftCount ∧ locate 1 128#10 = .big .n 0 := ⟨rfl, rfl, rfl, rfl, rfl, rfl, rfl⟩
theorem witness_CommandWriteFrame : (idle 97#32 0#32 0#32 0#32).turn = .host ∧
    exec .setup (idle 97#32 0#32 0#32 0#32) = .next (nextOf (exec .setup (idle 97#32 0#32 0#32 0#32))) ∧
    locate 1 5#10 = .errinfo := ⟨rfl, rfl, rfl⟩

/-! ### Corner cases -/

/-- SETUP repeated: MODVALID = 1 and the invariant. -/
theorem witness_SetupCornerCases : BlockInv (inFlight .setup (ready 3233#32 65#32 0#32 17#32)) ∧
    (inFlight .setup (ready 3233#32 65#32 0#32 17#32)).modvalid = true := ⟨inv_setup_in_flight, rfl⟩
/-- A = 0, B = 0, and A the Montgomery form 78 of 5 (V-TM-1). -/
theorem witness_MontmulCornerCases : value (inFlight .montmul (ready 97#32 0#32 50#32 0#32)) .a = 0 ∧
    value (inFlight .montmul (ready 97#32 50#32 0#32 0#32)) .b = 0 ∧
    value (inFlight .montmul (ready 97#32 78#32 7#32 0#32)) .a =
      5 * 2 ^ width (inFlight .montmul (ready 97#32 78#32 7#32 0#32)) % 97 := by decide
theorem witness_ModexpCornerCases : value (inFlight .modexp (ready 97#32 0#32 0#32 0#32)) .e = 0 ∧
    (value (inFlight .modexp (ready 97#32 0#32 0#32 1#32)) .a = 0 ∧ 0 < value (inFlight .modexp (ready 97#32 0#32 0#32 1#32)) .e) ∧
    value (inFlight .modexp (ready 97#32 1#32 0#32 3#32)) .a = 1 ∧
    value (inFlight .modexp (ready 97#32 5#32 0#32 1#32)) .e = 1 ∧
    (value (inFlight .modexp (ready 3#32 2#32 0#32 2#32)) .a = value (inFlight .modexp (ready 3#32 2#32 0#32 2#32)) .n - 1 ∧
      1 < value (inFlight .modexp (ready 3#32 2#32 0#32 2#32)) .n) ∧
    value (inFlight .modexp (ready 97#32 2#32 0#32 0xFFFFFFFF#32)) .e = 2 ^ width (resetOf 1) - 1 := by decide
theorem witness_FermatTrialCornerCases : InFlight (inFlight .fermat (ready 5#32 1#32 0#32 0#32)) .fermat ∧
    Sized (inFlight .fermat (ready 5#32 1#32 0#32 0#32)) ∧
    (5 ≤ value (inFlight .fermat (ready 5#32 1#32 0#32 0#32)) .n ∧
      value (inFlight .fermat (ready 5#32 1#32 0#32 0#32)) .n % 2 = 1) ∧
    value (inFlight .fermat (ready 5#32 1#32 0#32 0#32)) .a = 1 ∧
    value (inFlight .fermat (ready 5#32 4#32 0#32 0#32)) .a = value (inFlight .fermat (ready 5#32 4#32 0#32 0#32)) .n - 1 ∧
    Nat.gcd (value (inFlight .fermat (ready 91#32 7#32 0#32 0#32)) .a)
      (value (inFlight .fermat (ready 91#32 7#32 0#32 0#32)) .n) ≠ 1 ∧
    ({ inFlight .fermat (ready 5#32 1#32 0#32 0#32) with ftCount := 0xFFFFFFFF#32, ftPrime := true } : State).ftCount =
      0xFFFFFFFF#32 ∧
    ({ inFlight .fermat (ready 5#32 1#32 0#32 0#32) with ftComposite := true } : State).ftPrime = false :=
  ⟨by decide, sized_inFlight (sized_ready _ _ _ _) _, by decide, by decide, by decide, by decide, rfl, rfl⟩

/-! ### The arithmetic -/

theorem witness_MontgomeryProductFacts : 1 % 2 = 1 ∧ 97 % 2 = 1 := by decide
/-- a = 2^w − 1, b = n − 1; and n = 1, b = 0. -/
theorem witness_SerialMultiplier : 5 % 2 = 1 ∧ 7 < 2 ^ 3 ∧ 4 < 5 ∧ 3 ≤ 3 ∧ 0 < 1 := by decide
theorem witness_LadderReturnsThePower : 7 % 2 = 1 ∧ 7 < 2 ^ 3 ∧ 5 < 2 ^ 3 ∧ 1 < 2 ^ 1 := by decide
theorem witness_MontgomeryCommandLaws : Sized (ready 3233#32 65#32 0#32 17#32) ∧ BlockInv (ready 3233#32 65#32 0#32 17#32) ∧
    value (ready 3233#32 65#32 0#32 17#32) .n % 2 = 1 ∧ (ready 3233#32 65#32 0#32 17#32).modvalid = true ∧
    3232 < value (ready 3233#32 65#32 0#32 17#32) .n ∧ 2 ^ 32 - 1 < 2 ^ width (ready 3233#32 65#32 0#32 17#32) :=
  ⟨sized_ready _ _ _ _, inv_ready_3233, by decide, rfl, by decide, by decide⟩
theorem witness_ModexpLaws : Sized (ready 1#32 0#32 0#32 0#32) ∧ value (ready 1#32 0#32 0#32 0#32) .n % 2 = 1 ∧
    (2 ^ 31 - 1) + 2 ^ 31 < 2 ^ width (ready 1#32 0#32 0#32 0#32) ∧
    65535 * 65537 < 2 ^ width (ready 1#32 0#32 0#32 0#32) := ⟨sized_ready _ _ _ _, by decide, by decide, by decide⟩
/-- n = 15 with totient 8, e = d = 3, m = 2. -/
theorem witness_ModexpRoundTrip : Sized (ready 15#32 2#32 0#32 3#32) ∧ value (ready 15#32 2#32 0#32 3#32) .n % 2 = 1 ∧
    3 * 3 % Nat.totient (value (ready 15#32 2#32 0#32 3#32) .n) = 1 ∧ 2 < value (ready 15#32 2#32 0#32 3#32) .n ∧
    Nat.gcd 2 (value (ready 15#32 2#32 0#32 3#32) .n) = 1 :=
  ⟨sized_ready _ _ _ _, by decide, by decide, by decide, by decide⟩
/-- The prime 5 with the bases 1 and 4, the witness 2 of 9, and 561 with base 560. -/
theorem witness_FermatVerdict : InFlight (inFlight .fermat (ready 5#32 4#32 0#32 0#32)) .fermat ∧
    (5 ≤ value (inFlight .fermat (ready 5#32 4#32 0#32 0#32)) .n ∧
      1 ≤ value (inFlight .fermat (ready 5#32 4#32 0#32 0#32)) .a ∧
      value (inFlight .fermat (ready 5#32 4#32 0#32 0#32)) .a < value (inFlight .fermat (ready 5#32 4#32 0#32 0#32)) .n) ∧
    Nat.Prime (value (inFlight .fermat (ready 5#32 4#32 0#32 0#32)) .n) ∧
    after true State.ftPass (exec .fermat (inFlight .fermat (ready 9#32 2#32 0#32 0#32))) = false ∧
    value (inFlight .fermat (ready 561#32 560#32 0#32 0#32)) .n = 561 ∧ Nat.gcd 560 561 = 1 :=
  ⟨by decide, by decide, by norm_num [value, bigReg, inFlight, ready, idle, limbsValue], by decide, by decide, by decide⟩

/-! ### Runs -/

/-- v = 0 and v = 2^32 − 1. -/
theorem witness_LoadWritesTheWholeRegister : Sized (ready 97#32 1#32 2#32 3#32) ∧
    (ready 97#32 1#32 2#32 3#32).busy = false ∧ 0 < 2 ^ width (ready 97#32 1#32 2#32 3#32) ∧
    0xFFFFFFFF < 2 ^ width (ready 97#32 1#32 2#32 3#32) := ⟨sized_ready _ _ _ _, rfl, by decide, by decide⟩
theorem witness_EncryptSequence : BlockInv (ready 3233#32 65#32 0#32 17#32) ∧ (ready 3233#32 65#32 0#32 17#32).busy = false ∧
    (ready 3233#32 65#32 0#32 17#32).err = false ∧ (ready 3233#32 65#32 0#32 17#32).modvalid = true ∧
    0xFFFFFFFF < 2 ^ width (ready 3233#32 65#32 0#32 17#32) := ⟨inv_ready_3233, rfl, rfl, rfl, by decide⟩
/-- n = 1, 2, 3, 4 and 5, with the bases 1 and 4 of 5. -/
theorem witness_FermatRun : BlockInv (ready 3233#32 65#32 0#32 17#32) ∧ 5 < 2 ^ width (ready 3233#32 65#32 0#32 17#32) ∧
    (∀ a ∈ [1, 4], 1 ≤ a ∧ a < 5) ∧ ([1, 4] : List Nat).length < 2 ^ 32 := ⟨inv_ready_3233, by decide, by decide, by decide⟩
theorem witness_AccessesInFlight : (inFlight .setup (ready 3233#32 65#32 0#32 17#32)).busy = true ∧
    (inFlight .setup (ready 3233#32 65#32 0#32 17#32)).curOp = opcode .setup ∧
    (∀ ev ∈ [Event.write 128#10 9#32, .read 4#10, .write 4#10 0xF#32], isAccess ev = true) := by decide
theorem witness_DiscardedReads : runEvents [.read 4#10, .write 256#10 9#32, .read 256#10] (idle 97#32 0#32 0#32 0#32) =
    .next (nextOf (runEvents [.read 4#10, .write 256#10 9#32, .read 256#10] (idle 97#32 0#32 0#32 0#32))) := rfl
theorem witness_CurOpIsHiddenWhileIdle : (idle 97#32 0#32 0#32 0#32).busy = false ∧
    SameButCurOp (idle 97#32 0#32 0#32 0#32) { idle 97#32 0#32 0#32 0#32 with curOp := 0xFF#8 } ∧
    step (idle 97#32 0#32 0#32 0#32) = .next (nextOf (step (idle 97#32 0#32 0#32 0#32))) := ⟨rfl, rfl, rfl⟩

/-! ### Reads and writes -/

theorem witness_ReadHasNoSideEffect : (withEvents [.read 1023#10] (resetOf 1)).inputs = .read 1023#10 :: [] := rfl
/-- The boundaries of the reserved ranges: 8, 127, 129 and 895 with NW = 1, 896 and 1023. -/
theorem witness_Unassigned : Unassigned 1 8#10 ∧ Unassigned 1 127#10 ∧ Unassigned 1 129#10 ∧ Unassigned 1 895#10 ∧
    Unassigned 128 896#10 ∧ Unassigned 128 1023#10 ∧ ¬Unassigned 128 895#10 ∧ ¬Unassigned 1 128#10 ∧
    ¬Unassigned 1 7#10 := by unfold Unassigned; decide
theorem witness_AddressMapContents : (resetOf 128).nw ≤ 128 ∧ 127 < (resetOf 128).nw ∧ 0 < (resetOf 1).nw := by decide
theorem witness_BigRegisterIsTheSumOfItsWords : Sized (resetOf 128) ∧ Sized (ready 97#32 1#32 2#32 3#32) :=
  ⟨sized_largest, sized_ready _ _ _ _⟩
/-- A CTRL write of all ones, idle and with a command in flight; DONE with IE_DONE, and ERR with IE_ERR. -/
theorem witness_CtrlLayout :
    (writing 2#10 0xFFFFFFFF#32 (idle 0#32 0#32 0#32 0#32)).inputs = .write 2#10 0xFFFFFFFF#32 :: [] ∧
    (writing 2#10 3#32 (inFlight .nop (resetOf 1))).inputs = .write 2#10 3#32 :: [] ∧
    (writing 2#10 3#32 (inFlight .nop (resetOf 1))).busy = true ∧
    ({ resetOf 1 with done := true, ieDone := true } : State).done = true ∧
    ({ resetOf 1 with done := true, ieDone := true } : State).ieDone = true ∧
    ({ resetOf 1 with err := true, ieErr := true } : State).err = true ∧
    ({ resetOf 1 with err := true, ieErr := true } : State).ieErr = true := ⟨rfl, rfl, rfl, rfl, rfl, rfl, rfl⟩
theorem witness_StatusAndErrinfoLayout :
    (writing 4#10 0xE#32 (idle 0#32 0#32 0#32 0#32)).inputs = .write 4#10 0xE#32 :: [] := rfl
/-- The first word of N and the last word of E and of RR in the largest instance; no window index is a control index. -/
theorem witness_HostWriteByLocation : (resetOf 128).nw ≤ 128 ∧ bigIndex .n 0 = 128#10 ∧ bigIndex .e 127 = 639#10 ∧
    bigIndex .rr 127 = 895#10 ∧ (inFlight .nop (resetOf 128)).busy = true ∧ (resetOf 128).busy = false ∧
    (writing 639#10 7#32 (resetOf 128)).inputs = .write (bigIndex .e 127) 7#32 :: [] ∧ (8#32 : Word).toNat = 8 ∧
    (7#32 : Word) = encode .ftinit := by decide
theorem witness_ModulusWriteInvalidates : Sized (resetOf 128) ∧ (resetOf 128).busy = false ∧ 127 < (resetOf 128).nw ∧
    (writing 255#10 7#32 (resetOf 128)).inputs = .write (bigIndex .n 127) 7#32 :: [] :=
  ⟨sized_largest, rfl, by decide, rfl⟩

/-! ### What changes a register -/

theorem witness_Busy_rises : step (writing 3#10 0#32 (resetOf 1)) = .next (nextOf (step (writing 3#10 0#32 (resetOf 1)))) ∧
    (resetOf 1).busy = false ∧ (nextOf (step (writing 3#10 0#32 (resetOf 1)))).busy = true := ⟨rfl, rfl, rfl⟩
theorem witness_Busy_falls_Done_rises : step (inFlight .nop (resetOf 1)) = .next (nextOf (step (inFlight .nop (resetOf 1)))) ∧
    (inFlight .nop (resetOf 1)).inputs = [] ∧ (inFlight .nop (resetOf 1)).busy = true ∧
    (inFlight .nop (resetOf 1)).done = false ∧ (nextOf (step (inFlight .nop (resetOf 1)))).busy = false ∧
    (nextOf (step (inFlight .nop (resetOf 1)))).done = true := ⟨rfl, rfl, rfl, rfl, rfl, rfl⟩
theorem witness_Done_falls : ({ resetOf 1 with done := true } : State).done = true ∧
    (nextOf (step (writing 3#10 0#32 { resetOf 1 with done := true }))).done = false ∧
    (nextOf (step (writing 4#10 2#32 { resetOf 1 with done := true }))).done = false ∧
    (nextOf (step (withEvents [.reset] { resetOf 1 with done := true }))).done = false := ⟨rfl, rfl, rfl, rfl⟩
theorem witness_Err_rises : (writing 3#10 9#32 (resetOf 1)).err = false ∧
    (nextOf (step (writing 3#10 9#32 (resetOf 1)))).err = true ∧
    (nextOf (step (writing 3#10 1#32 (resetOf 1)))).err = true := ⟨rfl, rfl, rfl⟩
theorem witness_Err_falls_or_stays : ({ resetOf 1 with err := true, errCode := 2#8, errOp := 1#8 } : State).err = true ∧
    (nextOf (step (writing 4#10 4#32 { resetOf 1 with err := true, errCode := 2#8, errOp := 1#8 }))).err = false ∧
    (nextOf (step (writing 4#10 2#32 { resetOf 1 with err := true, errCode := 2#8, errOp := 1#8 }))).err = true :=
  ⟨rfl, rfl, rfl⟩
theorem witness_Wign_rises : (nextOf (step (writing 3#10 0#32 (inFlight .nop (resetOf 1))))).wign = true ∧
    (nextOf (step (writing 6#10 0#32 (inFlight .nop (resetOf 1))))).wign = true ∧
    (nextOf (step (writing 128#10 0#32 (inFlight .nop (resetOf 1))))).wign = true ∧
    (nextOf (step (writing 3#10 0#32 { resetOf 1 with err := true }))).wign = true ∧
    (inFlight .nop (resetOf 1)).wign = false := ⟨rfl, rfl, rfl, rfl, rfl⟩
theorem witness_Wign_falls : ({ resetOf 1 with wign := true } : State).wign = true ∧
    (nextOf (step (writing 4#10 8#32 { resetOf 1 with wign := true }))).wign = false := ⟨rfl, rfl⟩
theorem witness_Modvalid : (inFlight .setup (idle 97#32 0#32 0#32 0#32)).modvalid = false ∧
    (nextOf (step (inFlight .setup (idle 97#32 0#32 0#32 0#32)))).modvalid = true ∧
    (ready 97#32 0#32 0#32 0#32).modvalid = true ∧
    (nextOf (step (writing 128#10 97#32 (ready 97#32 0#32 0#32 0#32)))).modvalid = false := ⟨rfl, rfl, rfl, rfl⟩
theorem witness_FermatState : (nextOf (step (inFlight .fermat (ready 97#32 2#32 0#32 0#32)))).ftCount = 1#32 ∧
    (nextOf (step (writing 128#10 97#32 { ready 97#32 2#32 0#32 0#32 with ftCount := 1#32 }))).ftCount = 0#32 :=
  ⟨rfl, rfl⟩
theorem witness_RegistersAreWrittenByTheirAgentOnly : BlockInv (inFlight .setup (ready 3233#32 65#32 0#32 17#32)) ∧
    step (inFlight .setup (ready 3233#32 65#32 0#32 17#32)) =
      .next (nextOf (step (inFlight .setup (ready 3233#32 65#32 0#32 17#32)))) ∧
    (nextOf (step (inFlight .modexp (ready 3233#32 65#32 0#32 17#32)))).res ≠ (ready 3233#32 65#32 0#32 17#32).res ∧
    value (nextOf (step (writing 128#10 5#32 (ready 3233#32 65#32 0#32 17#32)))) .rr = 0 :=
  ⟨inv_setup_in_flight, rfl, by decide, rfl⟩
theorem witness_InterruptOutput : InFlight (inFlight .nop (resetOf 1)) .nop ∧
    exec .nop (inFlight .nop (resetOf 1)) = .next (nextOf (exec .nop (inFlight .nop (resetOf 1)))) ∧
    HostReady (idle 0#32 0#32 0#32 0#32) ∧
    exec .setup (idle 0#32 0#32 0#32 0#32) = .next (nextOf (exec .setup (idle 0#32 0#32 0#32 0#32))) ∧
    (6#32 : Word)[1] = true ∧ (6#32 : Word)[2] = true :=
  ⟨by decide, rfl, by decide, rfl, rfl, rfl⟩

/-! ### Reset, invariants -/

theorem witness_ResetAbandonsTheCommand :
    (withEvents [.reset, .read 4#10] (inFlight .setup (idle 97#32 0#32 0#32 0#32))).inputs = .reset :: [.read 4#10] ∧
    (inFlight .setup (idle 97#32 0#32 0#32 0#32)).busy = true ∧
    (inFlight .setup (idle 97#32 0#32 0#32 0#32)).inputs.head? ≠ some .reset := ⟨rfl, rfl, by decide⟩
theorem witness_ResetStateValues : (1 : Nat) ≤ 128 ∧ sizeWellFormed 1 = true ∧ sizeWellFormed 128 = true := by decide
theorem witness_EveryStepKeepsTheInvariant : BlockInv (ready 3233#32 65#32 0#32 17#32) ∧
    step (ready 3233#32 65#32 0#32 17#32) = .next (nextOf (step (ready 3233#32 65#32 0#32 17#32))) :=
  ⟨inv_ready_3233, rfl⟩
theorem witness_AcceptedCommandTerminates : BlockInv (inFlight .setup (ready 3233#32 65#32 0#32 17#32)) ∧
    (inFlight .setup (ready 3233#32 65#32 0#32 17#32)).busy = true ∧
    (inFlight .setup (ready 3233#32 65#32 0#32 17#32)).inputs = [] := ⟨inv_setup_in_flight, rfl, rfl⟩

end Sys2Proof.Tests
end

section
/-! The integer of a big register is the sum of its words as the host reads them. -/

namespace Sys2Proof.Machine

@[simp] theorem wordAt_cons_zero (w : Word) (ws : Limbs) : wordAt (w :: ws) 0 = w := rfl

@[simp] theorem wordAt_cons_succ (w : Word) (ws : Limbs) (i : Nat) : wordAt (w :: ws) (i + 1) = wordAt ws i := rfl

/-- `limbsValue` is the sum by which 00_scope.md R9 defines the integer of a register. -/
theorem limbsValue_eq_sum (ws : Limbs) :
    limbsValue ws = ((List.range ws.length).map (fun i => (wordAt ws i).toNat * 2 ^ (32 * i))).sum := by
  induction ws with
  | nil => rfl
  | cons w ws ih =>
    have hshift (i : Nat) : (wordAt (w :: ws) (i + 1)).toNat * 2 ^ (32 * (i + 1)) =
        2 ^ 32 * ((wordAt ws i).toNat * 2 ^ (32 * i)) := by
      rw [wordAt_cons_succ, two_pow_width_succ, Nat.mul_left_comm]
    rw [limbsValue_cons, ih, ← List.sum_map_mul_left, List.length_cons, List.range_succ_eq_map, List.map_cons,
      List.sum_cons, List.map_map]
    simp only [Function.comp_def, Nat.succ_eq_add_one, hshift, wordAt_cons_zero, Nat.mul_zero, pow_zero, Nat.mul_one]

/-- A read in a register's window returns the register's word (20_memory.md R72, R74). -/
theorem readWord_bigIndex {s : State} {i : Nat} (hs : Sized s) (hi : i < s.nw) (r : BigName) :
    readWord s (bigIndex r i) = wordAt (bigReg s r) i := by
  rw [readWord, locate_bigIndex hs.size.2 hi, readLoc]

/-- Settles O37: each word as read is the register's word, and the register's integer is the sum of its words. -/
theorem bigRegisterIsTheSumOfItsWords : Obligations.BigRegisterIsTheSumOfItsWords := by
  intro s r hs
  rw [value, limbsValue_eq_sum, hs.regs r]
  congr 1
  refine List.map_congr_left fun i hi => ?_
  rw [readWord_bigIndex hs (List.mem_range.mp hi)]

end Sys2Proof.Machine
end

section
/-! The decoder and the control part of the address map, as used by the rules about one step. -/

namespace Sys2Proof.Machine

/-! ## The decoder (30_encoding.md R103, R105) -/

theorem encode_of_decode {v : Word} {i : Instr} (h : decode v = .ok i) : v = encode i := by
  unfold decode at h
  split at h
  · cases h
  next hres =>
    split at h
    · next j hop =>
      cases h
      have hlow : opcodeField v = opcode i := opcode_of_instrOfOpcode hop
      have hhigh : reservedField v = 0#24 := not_not.mp hres
      have hv : v = reservedField v ++ opcodeField v := by
        rw [reservedField, opcodeField,
          BitVec.extractLsb'_append_extractLsb'_eq_extractLsb' (show 8 = 0 + 8 from rfl)]
        exact BitVec.extractLsb'_eq_self.symm
      rw [hv, hlow, hhigh, encode]
    · cases h

theorem decode_eq_ok_iff (v : Word) (i : Instr) : decode v = .ok i ↔ v = encode i := by
  constructor
  · exact encode_of_decode
  · rintro rfl
    cases i <;> rfl

/-- The values below 8 are the commands, so a value of no command is one that R104 calls illegal. -/
theorem exists_decode_of_lt {v : Word} (h : v.toNat < 8) : ∃ i, decode v = .ok i := by
  have hv : v = BitVec.ofNat 32 v.toNat := by simp
  rw [hv]
  generalize v.toNat = k at h
  interval_cases k <;> exact ⟨_, rfl⟩

theorem opcode_injective {i j : Instr} (h : opcode i = opcode j) : i = j := by
  have hi := instrOfOpcode_opcode i
  rw [h, instrOfOpcode_opcode] at hi
  exact (Option.some.inj hi).symm

/-- A table word that names a command is a CMD value that decodes to it (log 7). -/
theorem decode_tableWord {nbits w : Nat} {i : Instr} (h : decodeTableWord nbits w = some i) :
    decode (tableWord nbits w) = .ok i := by
  unfold decodeTableWord at h
  split at h
  · split at h
    · next hd => cases h; exact hd
    · cases h
  · cases h

/-! ## The control registers (20_memory.md R71) -/

theorem controlLoc_inj {j k : Nat} (hk : k < 8) (h : controlLoc j = controlLoc k) : j = k := by
  interval_cases k <;> (unfold controlLoc at h; split at h <;> simp_all)

theorem controlLoc_ne_reserved {k : Nat} (hk : k < 8) : controlLoc k ≠ .reserved := by
  interval_cases k <;> simp [controlLoc]

theorem controlLoc_ne_big {k i : Nat} {r : BigName} (hk : k < 8) : controlLoc k ≠ .big r i := by
  interval_cases k <;> simp [controlLoc]

/-- The control register number `k` is at word index `k` and nowhere else. -/
theorem index_of_locate_control {nw k : Nat} {w : WordIndex} (hk : k < 8) (h : locate nw w = controlLoc k) :
    w = BitVec.ofNat 10 k := by
  unfold locate at h
  split at h
  · rw [← controlLoc_inj hk h]; simp
  · split at h
    · split at h
      · exact absurd h.symm (controlLoc_ne_big hk)
      · exact absurd h.symm (controlLoc_ne_reserved hk)
    · exact absurd h.symm (controlLoc_ne_reserved hk)

end Sys2Proof.Machine
end

section
/-! What a store and a completion leave unchanged, and what a completion does to MODVALID, the Fermat state and RES. -/

namespace Sys2Proof.Machine

/-! ## A stored operand word (20_memory.md R75) -/

theorem storeBig_frame (r : BigName) (i : Nat) (v : Word) (s : State) :
    storeBig r i v s = { s with
      n := (storeBig r i v s).n, a := (storeBig r i v s).a, b := (storeBig r i v s).b, e := (storeBig r i v s).e
      rr := (storeBig r i v s).rr, modvalid := (storeBig r i v s).modvalid, ftPass := (storeBig r i v s).ftPass
      ftComposite := (storeBig r i v s).ftComposite, ftPrime := (storeBig r i v s).ftPrime
      ftCount := (storeBig r i v s).ftCount } := by
  cases r <;> rfl

section
variable (r : BigName) (i : Nat) (v : Word) (s : State)

@[simp] theorem storeBig_nw : (storeBig r i v s).nw = s.nw := by rw [storeBig_frame]
@[simp] theorem storeBig_res : (storeBig r i v s).res = s.res := by rw [storeBig_frame]
@[simp] theorem storeBig_busy : (storeBig r i v s).busy = s.busy := by rw [storeBig_frame]
@[simp] theorem storeBig_done : (storeBig r i v s).done = s.done := by rw [storeBig_frame]
@[simp] theorem storeBig_err : (storeBig r i v s).err = s.err := by rw [storeBig_frame]
@[simp] theorem storeBig_wign : (storeBig r i v s).wign = s.wign := by rw [storeBig_frame]
@[simp] theorem storeBig_errCode : (storeBig r i v s).errCode = s.errCode := by rw [storeBig_frame]
@[simp] theorem storeBig_errOp : (storeBig r i v s).errOp = s.errOp := by rw [storeBig_frame]

end

theorem storeBig_n (i : Nat) (v : Word) (s : State) : storeBig .n i v s = storeModulus i v s := rfl

/-- Only a store to N touches MODVALID and RR (10_state.md R22). -/
theorem storeBig_validity {r : BigName} (h : r ≠ .n) (i : Nat) (v : Word) (s : State) :
    (storeBig r i v s).modvalid = s.modvalid ∧ (storeBig r i v s).rr = s.rr := by
  cases r with
  | n => exact absurd rfl h
  | a | b | e | res | rr => exact ⟨rfl, rfl⟩

/-- Only a store to N touches the Fermat state (10_state.md R22). -/
theorem storeBig_fermatState {r : BigName} (h : r ≠ .n) (i : Nat) (v : Word) (s : State) :
    (storeBig r i v s).ftPass = s.ftPass ∧ (storeBig r i v s).ftComposite = s.ftComposite ∧
    (storeBig r i v s).ftPrime = s.ftPrime ∧ (storeBig r i v s).ftCount = s.ftCount := by
  cases r with
  | n => exact absurd rfl h
  | a | b | e | res | rr => exact ⟨rfl, rfl, rfl, rfl⟩

/-! ## A completion (40_common.md R134) -/

/-- FERMAT's completion: the verdict on a small N without a result, or a trial's (43_fermat.md R205, R206). -/
theorem effectFermat_cases (s : State) :
    (value s .n ≤ 1 ∧ effectFermat s = foundComposite s) ∨
    ((value s .n = 2 ∨ value s .n = 3) ∧ effectFermat s = foundSmallPrime s) ∨
    (4 ≤ value s .n ∧ ∃ r, r < value s .n ∧
      (effectFermat s = trialPassed (setRes r s) ∨ effectFermat s = foundComposite (setRes r s))) := by
  unfold effectFermat
  by_cases h1 : value s .n ≤ 1
  · exact .inl ⟨h1, if_pos h1⟩
  · rw [if_neg h1]
    by_cases h3 : value s .n ≤ 3
    · exact .inr (.inl ⟨by omega, if_pos h3⟩)
    · rw [if_neg h3]
      have hlt : modExp (value s .a) (value s .n - 1) (value s .n) < value s .n := by
        rw [modExp_eq (by omega)]; exact Nat.mod_lt _ (by omega)
      refine .inr (.inr ⟨by omega, _, hlt, ?_⟩)
      unfold fermatTrial
      by_cases hr : modExp (value s .a) (value s .n - 1) (value s .n) = 1
      · exact .inl (if_pos hr)
      · exact .inr (if_neg hr)

/-- A completion writes RES, RR, MODVALID and the Fermat state at most. -/
theorem effectOf_frame (i : Instr) (s : State) :
    effectOf i s = { s with
      res := (effectOf i s).res, rr := (effectOf i s).rr, modvalid := (effectOf i s).modvalid
      ftPass := (effectOf i s).ftPass, ftComposite := (effectOf i s).ftComposite
      ftPrime := (effectOf i s).ftPrime, ftCount := (effectOf i s).ftCount } := by
  cases i
  case fermat =>
    rw [effectOf]
    rcases effectFermat_cases s with ⟨_, e⟩ | ⟨_, e⟩ | ⟨_, r, _, e | e⟩ <;> rw [e] <;> rfl
  all_goals rfl

section
variable (i : Instr) (s : State)

@[simp] theorem effectOf_nw : (effectOf i s).nw = s.nw := by rw [effectOf_frame]
@[simp] theorem effectOf_n : (effectOf i s).n = s.n := by rw [effectOf_frame]
@[simp] theorem effectOf_a : (effectOf i s).a = s.a := by rw [effectOf_frame]
@[simp] theorem effectOf_b : (effectOf i s).b = s.b := by rw [effectOf_frame]
@[simp] theorem effectOf_e : (effectOf i s).e = s.e := by rw [effectOf_frame]
@[simp] theorem effectOf_err : (effectOf i s).err = s.err := by rw [effectOf_frame]
@[simp] theorem effectOf_wign : (effectOf i s).wign = s.wign := by rw [effectOf_frame]
@[simp] theorem effectOf_errCode : (effectOf i s).errCode = s.errCode := by rw [effectOf_frame]
@[simp] theorem effectOf_errOp : (effectOf i s).errOp = s.errOp := by rw [effectOf_frame]
@[simp] theorem effectOf_ftK : (effectOf i s).ftK = s.ftK := by rw [effectOf_frame]

end

/-- Only SETUP writes RR and MODVALID (10_state.md R27, R40). -/
theorem effectOf_validity {i : Instr} (h : i ≠ .setup) (s : State) :
    (effectOf i s).modvalid = s.modvalid ∧ (effectOf i s).rr = s.rr := by
  cases i
  case setup => exact absurd rfl h
  case fermat =>
    rw [effectOf]
    rcases effectFermat_cases s with ⟨_, e⟩ | ⟨_, e⟩ | ⟨_, r, _, e | e⟩ <;> rw [e] <;> exact ⟨rfl, rfl⟩
  all_goals exact ⟨rfl, rfl⟩

/-- Only FERMAT and FTINIT write the Fermat state (10_state.md R42, R45). -/
theorem effectOf_fermatState {i : Instr} (h : i ≠ .fermat) (h' : i ≠ .ftinit) (s : State) :
    (effectOf i s).ftPass = s.ftPass ∧ (effectOf i s).ftComposite = s.ftComposite ∧
    (effectOf i s).ftPrime = s.ftPrime ∧ (effectOf i s).ftCount = s.ftCount := by
  cases i
  case fermat => exact absurd rfl h
  case ftinit => exact absurd rfl h'
  all_goals exact ⟨rfl, rfl, rfl, rfl⟩

end Sys2Proof.Machine
end

section
/-! One step as a relation with a named case for each thing the block can do and the guard it does it under. -/

namespace Sys2Proof.Machine

/-- A lock drops the write of any value to word index `w` (10_state.md R39, 20_memory.md R77). -/
def DropsWrite (s : State) (w : WordIndex) : Prop :=
  (w = 3#10 ∧ (s.busy = true ∨ s.err = true)) ∨
  (s.busy = true ∧ (w = 6#10 ∨ ∃ r i, i < s.nw ∧ (r = .n ∨ r = .a ∨ r = .b ∨ r = .e) ∧ w = bigIndex r i))

/-- The CMD value `v` is refused with cause `c`: it is no command, or its command's check fails (40_common.md R131). -/
def RefusesValue (s : State) (v : Word) (c : ErrCode) : Prop :=
  (8 ≤ v.toNat ∧ c = .illegalCmd) ∨ ∃ i, v = encode i ∧ checkOf i s = some c

theorem RefusesValue.not_admitted {s : State} {v : Word} {c : ErrCode} (h : RefusesValue s v c) :
    8 ≤ v.toNat ∨ ∃ i, v = encode i ∧ ¬Admitted s i := by
  rcases h with ⟨hv, _⟩ | ⟨i, hv, hc⟩
  · exact .inl hv
  · exact .inr ⟨i, hv, fun adm => by simp [(checkOf_eq_none_iff i s).mpr adm] at hc⟩

/-- What a step of `s` does and the state it leads to: 20_memory.md R74, R75, 40_common.md R130 to R134,
70_reset_and_hazards.md R300. -/
inductive StepKind (s : State) : State → Prop where
  | read {w : WordIndex} {rest : List Event} (inp : s.inputs = .read w :: rest) :
      StepKind s (presentRead w (beginStep .host rest s))
  /-- A write without effect; where a location has none is `writeLoc`'s to say. -/
  | ignored {w : WordIndex} {v : Word} {rest : List Event} (inp : s.inputs = .write w v :: rest) :
      StepKind s (beginStep .host rest s)
  | dropped {w : WordIndex} {v : Word} {rest : List Event} (inp : s.inputs = .write w v :: rest)
      (lock : DropsWrite s w) : StepKind s (lockedWrite (beginStep .host rest s))
  | ctrl {v : Word} {rest : List Event} (inp : s.inputs = .write 2#10 v :: rest) :
      StepKind s (writeCtrl v (beginStep .host rest s))
  | status {v : Word} {rest : List Event} (inp : s.inputs = .write 4#10 v :: rest) :
      StepKind s (writeStatus v (beginStep .host rest s))
  | trialCount {v : Word} {rest : List Event} (inp : s.inputs = .write 6#10 v :: rest) (free : s.busy = false) :
      StepKind s { beginStep .host rest s with ftK := v }
  | stored {r : BigName} {i : Nat} {v : Word} {rest : List Event} (inp : s.inputs = .write (bigIndex r i) v :: rest)
      (lt : i < s.nw) (operand : isOperand r = true) (free : s.busy = false) :
      StepKind s (storeBig r i v (beginStep .host rest s))
  | refused {v : Word} {rest : List Event} {c : ErrCode} (inp : WritesCmd s v rest)
      (free : s.busy = false) (noErr : s.err = false) (cause : RefusesValue s v c) :
      StepKind s (raiseError c (opcodeField v) (beginStep .host rest s))
  | accepted {i : Instr} {rest : List Event} (inp : WritesCmd s (encode i) rest)
      (free : s.busy = false) (noErr : s.err = false) (adm : Admitted s i) :
      StepKind s (acceptCommand (opcode i) (beginStep .host rest s))
  | completed {i : Instr} (next : EngineNext s) (busy : s.busy = true) (op : s.curOp = opcode i) :
      StepKind s (finishCommand (effectOf i (beginStep .engine s.inputs.tail s)))
  | idle (next : EngineNext s) (free : s.busy = false) : StepKind s (beginStep .engine s.inputs.tail s)
  | reset {rest : List Event} (inp : s.inputs = .reset :: rest) :
      StepKind s (beginStep .engine rest (resetOf s.nw))

theorem cmdLocked_eq_true_iff (s : State) : cmdLocked s = true ↔ s.busy = true ∨ s.err = true := by simp [cmdLocked]

theorem cmdLocked_eq_false_iff (s : State) : cmdLocked s = false ↔ s.busy = false ∧ s.err = false := by
  simp [cmdLocked]

theorem isOperand_iff (r : BigName) : isOperand r = true ↔ r = .n ∨ r = .a ∨ r = .b ∨ r = .e := by cases r <;> decide

/-- A command value carries its opcode in its low byte. -/
theorem opcodeField_encode (i : Instr) : opcodeField (encode i) = opcode i := by cases i <;> rfl

/-- No check looks at the model's own fields. -/
theorem checkOf_beginStep (i : Instr) (t : Agent) (rest : List Event) (s : State) :
    checkOf i (beginStep t rest s) = checkOf i s := by
  cases i <;> rfl

/-- The write of a command's value is dropped, refused or accepted (40_common.md R130). -/
theorem stepKind_of_command {s : State} {i : Instr} {rest : List Event} (inp : WritesCmd s (encode i) rest) :
    StepKind s (writeCommand (opcode i) (checkOf i (beginStep .host rest s)) (beginStep .host rest s)) := by
  rw [checkOf_beginStep]
  rcases writeCommand_cases (opcode i) (checkOf i s) (beginStep .host rest s) with
    ⟨hl, e⟩ | ⟨hl, c, hc, e⟩ | ⟨hl, hc, e⟩ <;> rw [e]
  · exact .dropped inp (.inl ⟨rfl, (cmdLocked_eq_true_iff s).mp hl⟩)
  · obtain ⟨hb, he⟩ := (cmdLocked_eq_false_iff s).mp hl
    rw [← opcodeField_encode]
    exact .refused inp hb he (.inr ⟨i, rfl, hc⟩)
  · obtain ⟨hb, he⟩ := (cmdLocked_eq_false_iff s).mp hl
    exact .accepted inp hb he ((checkOf_eq_none_iff i s).mp hc)

/-- Any other write does what its location says (20_memory.md R75). -/
theorem stepKind_of_write {s : State} {w : WordIndex} {v : Word} {rest : List Event}
    (inp : s.inputs = .write w v :: rest) (hno : ¬(locate s.nw w = .cmd ∧ ∃ i, decode v = .ok i)) :
    StepKind s (writeLoc (locate s.nw w) v (beginStep .host rest s)) := by
  rcases writeLoc_cases (locate s.nw w) v (beginStep .host rest s) with e |
    ⟨hlock, e⟩ | ⟨hw, e⟩ | ⟨hw, e⟩ | ⟨hw, hl, e⟩ | ⟨hw, hb, e⟩ | ⟨r, i, hw, hr, hb, e⟩ <;> rw [e]
  · exact .ignored inp
  · refine .dropped inp ?_
    rcases hlock with ⟨hw, hl⟩ | ⟨hb, hw | ⟨r, i, hw, hr⟩⟩
    · exact .inl ⟨(locate_eq_cmd_iff _ _).mp hw, (cmdLocked_eq_true_iff s).mp hl⟩
    · exact .inr ⟨hb, .inl (index_of_locate_control (k := 6) (by decide) hw)⟩
    · obtain ⟨hi, hw⟩ := locate_eq_big hw
      exact .inr ⟨hb, .inr ⟨r, i, hi, (isOperand_iff r).mp hr, hw⟩⟩
  · obtain rfl : w = 2#10 := index_of_locate_control (k := 2) (by decide) hw
    exact .ctrl inp
  · obtain rfl : w = 4#10 := index_of_locate_control (k := 4) (by decide) hw
    exact .status inp
  · obtain ⟨hb, he⟩ := (cmdLocked_eq_false_iff s).mp hl
    have hv : 8 ≤ v.toNat := by
      by_contra hlt
      exact hno ⟨hw, exists_decode_of_lt (Nat.lt_of_not_le hlt)⟩
    obtain rfl : w = 3#10 := (locate_eq_cmd_iff _ _).mp hw
    exact .refused inp hb he (.inl ⟨hv, rfl⟩)
  · obtain rfl : w = 6#10 := index_of_locate_control (k := 6) (by decide) hw
    exact .trialCount inp hb
  · obtain ⟨hi, rfl⟩ := locate_eq_big hw
    exact .stored inp hi hr hb

/-- Every step that goes on is of one of these kinds. -/
theorem stepKind_of_step {s t : State} (h : step s = .next t) : StepKind s t := by
  rcases step_next_cases h with ⟨w, rest, inp, rfl⟩ | ⟨w, v, rest, i, inp, hw, hi, rfl⟩ |
    ⟨w, v, rest, inp, hno, rfl⟩ | ⟨hn, hb, i, hop, rfl⟩ | ⟨hn, hb, rfl⟩ | ⟨rest, inp, rfl⟩
  · exact .read inp
  · obtain rfl : w = 3#10 := (locate_eq_cmd_iff _ _).mp hw
    obtain rfl := (decode_eq_ok_iff v i).mp hi
    exact stepKind_of_command inp
  · exact stepKind_of_write inp hno
  · exact .completed hn hb hop
  · exact .idle hn hb
  · exact .reset inp

end Sys2Proof.Machine
end

section
/-! The fields of a STATUS write, and what the next event says about a step. -/

namespace Sys2Proof.Machine

section
variable (v : Word) (s : State)

@[simp] theorem writeStatus_nw : (writeStatus v s).nw = s.nw := by rw [writeStatus_eq]
@[simp] theorem writeStatus_n : (writeStatus v s).n = s.n := by rw [writeStatus_eq]
@[simp] theorem writeStatus_a : (writeStatus v s).a = s.a := by rw [writeStatus_eq]
@[simp] theorem writeStatus_b : (writeStatus v s).b = s.b := by rw [writeStatus_eq]
@[simp] theorem writeStatus_e : (writeStatus v s).e = s.e := by rw [writeStatus_eq]
@[simp] theorem writeStatus_res : (writeStatus v s).res = s.res := by rw [writeStatus_eq]
@[simp] theorem writeStatus_rr : (writeStatus v s).rr = s.rr := by rw [writeStatus_eq]
@[simp] theorem writeStatus_busy : (writeStatus v s).busy = s.busy := by rw [writeStatus_eq]
@[simp] theorem writeStatus_done : (writeStatus v s).done = (s.done && !v[1]) := by rw [writeStatus_eq]
@[simp] theorem writeStatus_err : (writeStatus v s).err = (s.err && !v[2]) := by rw [writeStatus_eq]
@[simp] theorem writeStatus_wign : (writeStatus v s).wign = (s.wign && !v[3]) := by rw [writeStatus_eq]
@[simp] theorem writeStatus_errCode : (writeStatus v s).errCode = if v[2] then 0#8 else s.errCode := by
  rw [writeStatus_eq]
@[simp] theorem writeStatus_errOp : (writeStatus v s).errOp = if v[2] then 0#8 else s.errOp := by rw [writeStatus_eq]
@[simp] theorem writeStatus_modvalid : (writeStatus v s).modvalid = s.modvalid := by rw [writeStatus_eq]
@[simp] theorem writeStatus_ftPass : (writeStatus v s).ftPass = s.ftPass := by rw [writeStatus_eq]
@[simp] theorem writeStatus_ftComposite : (writeStatus v s).ftComposite = s.ftComposite := by rw [writeStatus_eq]
@[simp] theorem writeStatus_ftPrime : (writeStatus v s).ftPrime = s.ftPrime := by rw [writeStatus_eq]
@[simp] theorem writeStatus_ftCount : (writeStatus v s).ftCount = s.ftCount := by rw [writeStatus_eq]

end

/-- In the engine's turn a command in flight completes (40_common.md R134). -/
theorem completes_of_engineNext {s t : State} (hn : EngineNext s) (hb : s.busy = true) (h : step s = .next t) :
    ∃ i, s.curOp = opcode i ∧ t = finishCommand (effectOf i (beginStep .engine s.inputs.tail s)) := by
  cases stepKind_of_step h with
  | completed _ _ op => exact ⟨_, op, rfl⟩
  | idle _ free => simp [hb] at free
  | read inp | ignored inp | dropped inp _ | ctrl inp | status inp | trialCount inp _ | stored inp _ _ _
  | refused inp _ _ _ | accepted inp _ _ _ | reset inp => simp [EngineNext, inp] at hn

end Sys2Proof.Machine
end

section
/-! What changes a flag and nothing else does: one case of `StepKind` for each kind of step. -/

namespace Sys2Proof.Machine

/-! ## Edges of a flag from `x` to `y` -/

/-- A flag that keeps its value neither rises nor falls. -/
theorem no_edge {x y : Bool} {P Q : Prop} (h : y = x) :
    (x = false → y = true → P) ∧ (x = true → y = false → Q) := by
  subst h
  cases y <;> simp

/-- A write-one-to-clear flag falls where its bit is 1 and never rises. -/
theorem w1c_edge {x bit : Bool} {P Q : Prop} (h : bit = true → Q) :
    (x = false → (x && !bit) = true → P) ∧ (x = true → (x && !bit) = false → Q) := by
  cases x
  · simp
  · simpa using h

/-! ## The flags -/

/-- Settles O41: only an acceptance sets BUSY, only a completion and reset clear it. -/
theorem busyChangesOnlyAsStated : Obligations.BusyChangesOnlyAsStated := by
  intro s t h
  cases stepKind_of_step h with
  | accepted inp free noErr adm => exact ⟨fun _ _ => ⟨_, _, inp, noErr, adm⟩, by simp [free]⟩
  | completed next busy _ => exact ⟨by simp [busy], fun _ _ => next.imp_right .inl⟩
  | reset inp => exact ⟨by simp [resetOf], fun _ _ => .inr (.inr (by simp [inp]))⟩
  | _ => exact no_edge (by simp)

/-- DONE rises at a completion only, and falls at an acceptance, its W1C write or reset only. -/
theorem done_edge {s t : State} (h : step s = .next t) :
    (s.done = false → t.done = true → EngineNext s ∧ s.busy = true) ∧
    (s.done = true → t.done = false →
      (∃ i rest, WritesCmd s (encode i) rest ∧ s.busy = false ∧ s.err = false ∧ Admitted s i) ∨
      (∃ v rest, s.inputs = .write 4#10 v :: rest ∧ v[1] = true) ∨ s.inputs.head? = some .reset) := by
  cases stepKind_of_step h with
  | completed next busy _ => exact ⟨fun _ _ => ⟨next, busy⟩, by simp⟩
  | accepted inp free noErr adm => exact ⟨by simp, fun _ _ => .inl ⟨_, _, inp, free, noErr, adm⟩⟩
  | status inp =>
    rw [writeStatus_done]
    exact w1c_edge fun hv => .inr (.inl ⟨_, _, inp, hv⟩)
  | reset inp => exact ⟨by simp [resetOf], fun _ _ => .inr (.inr (by simp [inp]))⟩
  | _ => exact no_edge (by simp)

/-- Settles O42: a completion always sets DONE, and the edges of DONE are those of `done_edge`. -/
theorem doneChangesOnlyAsStated : Obligations.DoneChangesOnlyAsStated := by
  intro s t h
  refine ⟨fun hn hb => ?_, done_edge h⟩
  obtain ⟨i, _, rfl⟩ := completes_of_engineNext hn hb h
  rfl

/-- Settles O43: a refusal raises ERR; a STATUS write with bit 2 and reset clear ERR and ERRINFO together. -/
theorem errChangesOnlyAsStated : Obligations.ErrChangesOnlyAsStated := by
  intro s t h
  cases stepKind_of_step h with
  | refused inp free noErr cause =>
    exact ⟨fun _ _ => ⟨_, _, inp, free, cause.not_admitted⟩, by simp [noErr], by simp [noErr]⟩
  | @status v rest inp =>
    cases hv : v[2]
    · exact ⟨by simp +contextual [hv], by simp +contextual [hv], by simp [hv]⟩
    · exact ⟨by simp [hv], fun _ _ => ⟨by simp [hv], by simp [hv], .inl ⟨v, rest, inp, hv⟩⟩, by simp [hv]⟩
  | reset inp => exact ⟨by simp [resetOf], fun _ _ => ⟨rfl, rfl, .inr (by simp [inp])⟩, by simp [resetOf]⟩
  | _ => exact and_assoc.mp ⟨no_edge (by simp), fun _ _ => by simp⟩

/-- Settles O44: only a dropped write sets WIGN, only its W1C write and reset clear it. -/
theorem wignChangesOnlyAsStated : Obligations.WignChangesOnlyAsStated := by
  intro s t h
  cases stepKind_of_step h with
  | dropped inp lock => exact ⟨fun _ _ => ⟨_, _, _, inp, lock⟩, by simp⟩
  | status inp =>
    rw [writeStatus_wign]
    exact w1c_edge fun hv => .inl ⟨_, _, inp, hv⟩
  | reset inp => exact ⟨by simp [resetOf], fun _ _ => .inr (by simp [inp])⟩
  | _ => exact no_edge (by simp)

/-- Settles O45: SETUP alone sets MODVALID, and a store clears it where it is to N. -/
theorem modvalidChangesOnlyAsStated : Obligations.ModvalidChangesOnlyAsStated := by
  intro s t h
  cases stepKind_of_step h with
  | @completed i next busy op =>
    by_cases hi : i = .setup
    · subst hi
      exact ⟨fun _ _ => ⟨next, busy, op⟩, by simp [effectOf]⟩
    · exact no_edge (effectOf_validity hi _).1
  | @stored r i v rest inp lt _ free =>
    by_cases hr : r = .n
    · subst hr
      exact ⟨by simp [storeBig], fun _ _ => .inl ⟨i, v, rest, lt, inp, free⟩⟩
    · exact no_edge (storeBig_validity hr i v _).1
  | reset inp => exact ⟨by simp [resetOf], fun _ _ => .inr (by simp [inp])⟩
  | _ => exact no_edge (by simp)

/-- Settles O46: of the completions FERMAT's and FTINIT's write the Fermat state, of the stores those to N. -/
theorem fermatStateChangesOnlyAsStated : Obligations.FermatStateChangesOnlyAsStated := by
  intro s t h
  cases stepKind_of_step h with
  | @completed i next busy op =>
    by_cases hi : i = .fermat
    · subst hi; exact .inr (.inl ⟨next, busy, .inl op⟩)
    by_cases hi' : i = .ftinit
    · subst hi'; exact .inr (.inl ⟨next, busy, .inr op⟩)
    exact .inl (effectOf_fermatState hi hi' _)
  | @stored r i v rest inp lt _ free =>
    by_cases hr : r = .n
    · subst hr; exact .inr (.inr ⟨.inl ⟨i, v, rest, lt, inp, free⟩, rfl, rfl, rfl, rfl⟩)
    · exact .inl (storeBig_fermatState hr i v _)
  | reset inp => exact .inr (.inr ⟨.inr (by simp [inp]), rfl, rfl, rfl, rfl⟩)
  | _ => exact .inl (by simp)

end Sys2Proof.Machine
end

section
/-! Who writes the big registers, and that a result lies below the modulus. -/

namespace Sys2Proof.Machine

theorem value_setRes_le (v : Nat) (s : State) : value (setRes v s) .res ≤ v := by
  rw [value_res_setRes, limbsValue_limbsOf]
  exact Nat.mod_le _ _

/-- A completion that passed its checks leaves RES, or is one of the five that have a result, which lies below N. -/
theorem effectOf_res_lt {i : Instr} {s : State} (adm : Admitted s i)
    (hodd : s.modvalid = true → value s .n % 2 = 1) :
    (effectOf i s).res = s.res ∨
    ((i = .montmul ∨ i = .tomont ∨ i = .frommont ∨ i = .modexp ∨ i = .fermat) ∧
      value (effectOf i s) .res < value s .n) := by
  have hne (hv : s.modvalid = true) : value s .n ≠ 0 := ne_zero_of_odd (hodd hv)
  have below {x : Nat} (hx : x < value s .n) : value (setRes x s) .res < value s .n :=
    Nat.lt_of_le_of_lt (value_setRes_le x s) hx
  cases i with
  | nop | setup | ftinit => exact .inl rfl
  | montmul => exact .inr ⟨by simp, below (montMul_lt (hodd adm.1) _ _ _)⟩
  | tomont => exact .inr ⟨by simp, below (modN_lt (hne adm) _)⟩
  | frommont => exact .inr ⟨by simp, below (modN_lt (hne adm) _)⟩
  | modexp =>
    refine .inr ⟨by simp, below ?_⟩
    rw [modExp_eq (hne adm)]
    exact Nat.mod_lt _ (Nat.pos_of_ne_zero (hne adm))
  | fermat =>
    rw [effectOf]
    rcases effectFermat_cases s with ⟨_, e⟩ | ⟨_, e⟩ | ⟨_, r, hr, e | e⟩ <;> rw [e]
    · exact .inl rfl
    · exact .inl rfl
    · exact .inr ⟨by simp, below hr⟩
    · exact .inr ⟨by simp, below hr⟩

/-- The command in flight is one that passed its checks. -/
theorem BlockInv.admitted {s : State} (h : BlockInv s) {i : Instr} (hb : s.busy = true) (hop : s.curOp = opcode i) :
    Admitted s i := by
  obtain ⟨j, hj, adm⟩ := h.inFlight hb
  rwa [opcode_injective (hop.symm.trans hj)]

theorem engine_keeps_operands {s t : State} (hn : EngineNext s) (h : step s = .next t) :
    t.n = s.n ∧ t.a = s.a ∧ t.b = s.b ∧ t.e = s.e ∧ t.ftK = s.ftK := by
  cases hb : s.busy
  · rw [step_engine_idle hn hb] at h
    cases h
    simp
  · obtain ⟨i, _, rfl⟩ := completes_of_engineNext hn hb h
    simp

theorem host_write_keeps_results {s t : State} {w : WordIndex} {v : Word} {rest : List Event}
    (hw : s.inputs = .write w v :: rest) (h : step s = .next t) :
    t.res = s.res ∧ (t.rr = s.rr ∨
      (value t .rr = 0 ∧ ∃ i v rest, i < s.nw ∧ s.inputs = .write (bigIndex .n i) v :: rest)) := by
  cases stepKind_of_step h with
  | @stored r i v rest inp lt _ _ =>
    by_cases hr : r = .n
    · subst hr
      exact ⟨by simp, .inr ⟨by simp [storeBig_n], i, v, rest, lt, inp⟩⟩
    · exact ⟨by simp, .inl (storeBig_validity hr i v _).2⟩
  | completed next _ _ | idle next _ => simp [EngineNext, hw] at next
  | reset inp => simp [hw] at inp
  | _ => exact ⟨by simp, .inl (by simp)⟩

/-- RES changes at reset and at the completion of a command with a result only, and then lies below N. -/
theorem result_of_res_ne {s t : State} (hinv : BlockInv s) (h : step s = .next t) (hne : t.res ≠ s.res)
    (hnr : s.inputs.head? ≠ some .reset) :
    EngineNext s ∧ s.busy = true ∧
    (s.curOp = 0x02#8 ∨ s.curOp = 0x03#8 ∨ s.curOp = 0x04#8 ∨ s.curOp = 0x05#8 ∨ s.curOp = 0x06#8) ∧
    value t .res < value s .n := by
  cases stepKind_of_step h with
  | @completed i next busy op =>
    have hodd : s.modvalid = true → value s .n % 2 = 1 := fun hv => (hinv.validOdd hv).1
    rcases effectOf_res_lt (s := beginStep .engine s.inputs.tail s) (hinv.admitted busy op) hodd with
      hres | ⟨hi, hlt⟩
    · exact absurd hres hne
    · refine ⟨next, busy, ?_, hlt⟩
      rw [op]
      rcases hi with rfl | rfl | rfl | rfl | rfl <;> decide
  | reset inp => simp [inp] at hnr
  | _ => exact absurd (by simp) hne

/-- Settles O47, by what the engine's turn keeps, what a host write keeps, and the bound on a result. -/
theorem registersAreWrittenByTheirAgentOnly : Obligations.RegistersAreWrittenByTheirAgentOnly := by
  intro s t hinv h
  refine ⟨fun hn => engine_keeps_operands hn h, ?_, result_of_res_ne hinv h⟩
  rintro ⟨w, v, rest, hw⟩
  exact host_write_keeps_results hw h

end Sys2Proof.Machine
end

section
/-! The invariant: it holds at reset, and every kind of step keeps it. -/

namespace Sys2Proof.Machine

theorem BlockInv.beginStep {s : State} (h : BlockInv s) (t : Agent) (rest : List Event) :
    BlockInv (beginStep t rest s) :=
  { h with sized := h.sized.beginStep t rest }

theorem BlockInv.presentRead {s : State} (h : BlockInv s) (w : WordIndex) : BlockInv (presentRead w s) :=
  { h with sized := ⟨h.sized.size, by simpa using h.sized.regs⟩ }

theorem BlockInv.lockedWrite {s : State} (h : BlockInv s) : BlockInv (lockedWrite s) :=
  { h with sized := ⟨h.sized.size, by simpa using h.sized.regs⟩ }

theorem BlockInv.writeCtrl {s : State} (h : BlockInv s) (v : Word) : BlockInv (writeCtrl v s) :=
  { h with sized := ⟨h.sized.size, by simpa using h.sized.regs⟩ }

theorem BlockInv.setTrialCount {s : State} (h : BlockInv s) (v : Word) : BlockInv { s with ftK := v } :=
  { h with sized := ⟨h.sized.size, h.sized.regs⟩ }

/-- A STATUS write clears ERR with ERRINFO, so they stay equivalent. -/
theorem BlockInv.writeStatus {s : State} (h : BlockInv s) (v : Word) : BlockInv (writeStatus v s) := by
  have hs : Sized (Machine.writeStatus v s) := h.sized.writeLoc .status v
  rw [writeStatus_eq] at hs ⊢
  have hbe := h.busyErr
  have hbd := h.busyDone
  refine { h with sized := hs, busyErr := ?_, busyDone := ?_, errCodeZero := ?_, errOpZero := ?_, errCodeRange := ?_ }
  · simp; tauto
  · simp; tauto
  · cases v[2]
    · simpa using h.errCodeZero
    · simp
  · cases v[2]
    · simpa using h.errOpZero
    · simp
  · cases v[2]
    · exact h.errCodeRange
    · simp

theorem errByte_range (c : ErrCode) : errByte c ≠ 0#8 ∧ (errByte c).toNat ≤ 5 := by cases c <;> decide

theorem BlockInv.raiseError {s : State} (h : BlockInv s) (hb : s.busy = false) (c : ErrCode) (op : Byte) :
    BlockInv (raiseError c op s) :=
  { h with
    sized := ⟨h.sized.size, by simpa using h.sized.regs⟩
    busyErr := by simp [hb]
    errCodeZero := by simp [(errByte_range c).1]
    errOpZero := by simp
    errCodeRange := (errByte_range c).2 }

theorem BlockInv.acceptCommand {s : State} (h : BlockInv s) (he : s.err = false) {i : Instr} (adm : Admitted s i) :
    BlockInv (acceptCommand (opcode i) s) :=
  { h with
    sized := ⟨h.sized.size, by simpa using h.sized.regs⟩
    busyErr := by simp [he]
    busyDone := by simp
    inFlight := fun _ => ⟨i, rfl, adm⟩ }

/-- A write to N clears all that depends on N; a write to A, B or E meets an idle engine. -/
theorem BlockInv.storeBig {s : State} (h : BlockInv s) (hb : s.busy = false) (r : BigName) (i : Nat) (v : Word) :
    BlockInv (storeBig r i v s) := by
  have hs := h.sized.storeBig r i v
  cases r with
  | n =>
    exact { h with
      sized := hs
      validOdd := by simp [storeBig_n]
      invalidZero := by simp [storeBig_n]
      primeComposite := by simp [storeBig_n]
      primePass := by simp [storeBig_n]
      smallPrimeClean := by simp [storeBig_n]
      inFlight := by simp [hb] }
  | a | b | e | res | rr => exact { h with sized := hs, inFlight := by simp [hb] }

/-- SETUP validates an odd N with RR as R152 defines it; no other completion touches MODVALID or RR. -/
theorem BlockInv.effect_validity {s : State} (h : BlockInv s) {i : Instr} (adm : Admitted s i) :
    ((effectOf i s).modvalid = true →
      value s .n % 2 = 1 ∧ limbsValue (effectOf i s).rr = 2 ^ (2 * width s) % value s .n) ∧
    ((effectOf i s).modvalid = false → limbsValue (effectOf i s).rr = 0) := by
  by_cases hi : i = .setup
  · subst hi
    have hodd : value s .n % 2 = 1 := adm
    have hne : value s .n ≠ 0 := ne_zero_of_odd hodd
    have hlt : modN (2 ^ (2 * width s)) (value s .n) < 2 ^ width s := (modN_lt hne _).trans (h.sized.value_lt .n)
    refine ⟨fun _ => ⟨hodd, ?_⟩, by simp [effectOf]⟩
    rw [effectOf, effectSetup_rr, limbsValue_limbsOf_of_lt hlt, modN_eq hne]
  · obtain ⟨hm, hr⟩ := effectOf_validity hi s
    rw [hm, hr]
    exact ⟨h.validOdd, h.invalidZero⟩

/-- The verdicts of a completion are consistent: FT_PRIME comes with FT_PASS and without FT_COMPOSITE (R205, R206). -/
theorem BlockInv.effect_verdict {s : State} (h : BlockInv s) (i : Instr) :
    ¬((effectOf i s).ftPrime = true ∧ (effectOf i s).ftComposite = true) ∧
    ((effectOf i s).ftPrime = true → (effectOf i s).ftPass = true) ∧
    (value s .n = 2 ∨ value s .n = 3 → (effectOf i s).ftComposite = false) := by
  by_cases hf : i = .fermat
  · subst hf
    rw [effectOf]
    rcases effectFermat_cases s with ⟨hn, e⟩ | ⟨hn, e⟩ | ⟨hn, r, _, e | e⟩ <;> rw [e]
    · exact ⟨by simp, by simp, by omega⟩
    · exact ⟨by simp [h.smallPrimeClean hn], by simp, h.smallPrimeClean⟩
    · have hpc : s.ftPrime = true → s.ftComposite = false := by simpa using h.primeComposite
      exact ⟨by simp; tauto, by simp, by omega⟩
    · exact ⟨by simp, by simp, by omega⟩
  by_cases hi : i = .ftinit
  · subst hi
    simp [effectOf]
  obtain ⟨hpass, hcomp, hprime, _⟩ := effectOf_fermatState hf hi s
  rw [hpass, hcomp, hprime]
  exact ⟨h.primeComposite, h.primePass, h.smallPrimeClean⟩

theorem BlockInv.complete {s : State} (h : BlockInv s) {i : Instr} (hb : s.busy = true) (adm : Admitted s i) :
    BlockInv (finishCommand (effectOf i s)) := by
  have hs := h.sized.effectOf i
  have he : s.err = false := by simpa [hb] using h.busyErr
  obtain ⟨validOdd, invalidZero⟩ := h.effect_validity adm
  obtain ⟨primeComposite, primePass, smallPrimeClean⟩ := h.effect_verdict i
  exact {
    sized := ⟨hs.size, by simpa using hs.regs⟩
    busyErr := by simp
    busyDone := by simp
    validOdd := by simpa [value, width] using validOdd
    invalidZero := by simpa [value] using invalidZero
    errCodeZero := by simpa using h.errCodeZero
    errOpZero := by simpa using h.errOpZero
    errCodeRange := by simpa using h.errCodeRange
    primeComposite
    primePass
    smallPrimeClean := by simpa [value] using smallPrimeClean
    inFlight := by simp }

/-- The reset state of every size meets the invariant (10_state.md R47, R50). -/
theorem BlockInv.resetOf {nw : Nat} (h : 1 ≤ nw ∧ nw ≤ Config.maxNW) : BlockInv (resetOf nw) where
  sized := Sized.resetOf h
  busyErr := by simp [Machine.resetOf]
  busyDone := by simp [Machine.resetOf]
  validOdd := by simp [Machine.resetOf]
  invalidZero _ := limbsValue_zeroLimbs nw
  errCodeZero := by simp [Machine.resetOf]
  errOpZero := by simp [Machine.resetOf]
  errCodeRange := by simp [Machine.resetOf]
  primeComposite := by simp [Machine.resetOf]
  primePass := by simp [Machine.resetOf]
  smallPrimeClean _ := rfl
  inFlight := by simp [Machine.resetOf]

/-- Every step keeps the invariant. -/
theorem BlockInv.step {s t : State} (h : BlockInv s) (hst : step s = .next t) : BlockInv t := by
  cases stepKind_of_step hst with
  | read _ => exact (h.beginStep _ _).presentRead _
  | ignored _ => exact h.beginStep _ _
  | dropped _ _ => exact (h.beginStep _ _).lockedWrite
  | ctrl _ => exact (h.beginStep _ _).writeCtrl _
  | status _ => exact (h.beginStep _ _).writeStatus _
  | trialCount _ _ => exact (h.beginStep _ _).setTrialCount _
  | stored _ _ _ free => exact (h.beginStep _ _).storeBig free _ _ _
  | refused _ free _ _ => exact (h.beginStep _ _).raiseError free _ _
  | accepted _ _ noErr adm => exact (h.beginStep _ _).acceptCommand noErr adm
  | completed _ busy op => exact (h.beginStep _ _).complete busy (h.admitted busy op)
  | idle _ _ => exact h.beginStep _ _
  | reset _ => exact (BlockInv.resetOf h.sized.size).beginStep _ _

/-- Every reachable state meets the invariant. -/
theorem Reachable.blockInv {s : State} (h : Reachable s) : BlockInv s := by
  obtain ⟨nw, es, k, hnw, hrun⟩ := h
  have hsize : 1 ≤ nw ∧ nw ≤ Config.maxNW := by simpa [sizeWellFormed] using hnw
  have h0 : BlockInv (withEvents es (Machine.resetOf nw)) :=
    { BlockInv.resetOf hsize with sized := ⟨hsize, (Sized.resetOf hsize).regs⟩ }
  exact core_run_induct (fun _ _ => BlockInv.step) h0 hrun

/-- Settles O53: items 1 to 7 are parts of the invariant, and RES is not 0 and 1 at once. -/
theorem reachableStatesKeepR47 : Obligations.ReachableStatesKeepR47 := by
  intro s hreach
  have h := hreach.blockInv
  have hrr : 2 ^ width s * 2 ^ width s = 2 ^ (2 * width s) := by rw [← pow_add, ← two_mul]
  refine ⟨h.busyErr, h.busyDone, ?_, h.invalidZero, ⟨h.errCodeZero, h.errOpZero⟩, h.primeComposite, h.primePass, ?_⟩
  · rw [hrr]
    exact h.validOdd
  · simp only [zeroFlag, oneFlag, beq_iff_eq]
    omega

end Sys2Proof.Machine
end

section
/-! The control registers as read and as written, a store to N through the address map, and the reset state. -/

namespace Sys2Proof.Machine

/-! ## Reads of the control registers -/

@[simp] theorem readWord_ctrl (s : State) : readWord s 2#10 = ctrlWord s := rfl
@[simp] theorem readWord_status (s : State) : readWord s 4#10 = statusWord s := rfl
@[simp] theorem readWord_errinfo (s : State) : readWord s 5#10 = errinfoWord s := rfl

/-- STATUS bit by bit (10_state.md R35). -/
theorem statusWord_getLsbD (s : State) (k : Nat) : (statusWord s).getLsbD k =
    ((s.busy && decide (k = 0)) || (s.done && decide (k = 1)) || (s.err && decide (k = 2)) ||
     (s.wign && decide (k = 3)) || (s.modvalid && decide (k = 4)) || (zeroFlag s && decide (k = 8)) ||
     (oneFlag s && decide (k = 9)) || (s.ftPass && decide (k = 16)) || (s.ftComposite && decide (k = 17)) ||
     (s.ftPrime && decide (k = 18))) := by
  simp [statusWord, flagAt_getLsbD]

theorem statusWord_reserved (s : State) {k : Nat} (h : k ∈ [5, 6, 7, 10, 11, 12, 13, 14, 15] ∨ 19 ≤ k) :
    (statusWord s).getLsbD k = false := by
  have hk : k ≠ 0 ∧ k ≠ 1 ∧ k ≠ 2 ∧ k ≠ 3 ∧ k ≠ 4 ∧ k ≠ 8 ∧ k ≠ 9 ∧ k ≠ 16 ∧ k ≠ 17 ∧ k ≠ 18 := by
    simp only [List.mem_cons, List.not_mem_nil, or_false] at h
    omega
  simp [statusWord_getLsbD, hk]

/-- ERRINFO field by field (10_state.md R43). -/
theorem errinfoWord_fields (s : State) : (errinfoWord s).extractLsb' 0 8 = s.errCode ∧
    (errinfoWord s).extractLsb' 8 8 = s.errOp ∧ (errinfoWord s).extractLsb' 16 16 = 0#16 := by
  unfold errinfoWord
  refine ⟨?_, ?_, BitVec.extractLsb'_append_eq_left⟩
  · rw [BitVec.extractLsb'_append_eq_of_add_le (by decide), BitVec.extractLsb'_append_eq_right]
  · rw [BitVec.extractLsb'_append_eq_of_add_le (by decide), BitVec.extractLsb'_append_eq_left]

theorem zeroFlag_iff (s : State) : zeroFlag s = true ↔ value s .res = 0 := beq_iff_eq

theorem oneFlag_iff (s : State) : oneFlag s = true ↔ value s .res = 1 := beq_iff_eq

/-! ## Writes of the control registers -/

/-- A write outside CMD is what its location says (20_memory.md R75). -/
theorem step_write_loc {s : State} {w : WordIndex} {v : Word} {rest : List Event} {l : Loc}
    (inp : s.inputs = .write w v :: rest) (hw : locate s.nw w = l) (hl : l ≠ .cmd) :
    step s = .next (writeLoc l v (beginStep .host rest s)) := by
  subst hw
  exact step_write_other inp fun h => hl h.1

theorem step_write_status {s : State} {v : Word} {rest : List Event} (inp : s.inputs = .write 4#10 v :: rest) :
    step s = .next { beginStep .host rest s with
      done := if v[1] then false else s.done
      err := if v[2] then false else s.err
      errCode := if v[2] then 0#8 else s.errCode
      errOp := if v[2] then 0#8 else s.errOp
      wign := if v[3] then false else s.wign } := by
  rw [step_write_loc (l := .status) inp rfl (by simp), writeLoc, writeStatus_eq]
  simp [Bool.and_comm]

/-- Settles O38: the two words bit by bit, and the write as the write-one-to-clear update. -/
theorem statusAndErrinfoLayout : Obligations.StatusAndErrinfoLayout := by
  intro s
  obtain ⟨hcode, hop, hrsvd⟩ := errinfoWord_fields s
  refine ⟨?_, ?_, ?_, ?_, ?_, ?_, ?_, ?_, ?_, ?_, fun k => statusWord_reserved s, hcode, hop, hrsvd,
    fun v rest inp => step_write_status inp⟩
  all_goals
    rw [← BitVec.getLsbD_eq_getElem, readWord_status, statusWord_getLsbD]
    simp [zeroFlag_iff, oneFlag_iff]

theorem ctrlWord_writeCtrl (v : Word) (s : State) : ctrlWord (writeCtrl v s) = v &&& 0x00000003#32 := by
  ext k hk
  have hmask : (3#32)[k] = (decide (k = 0) || decide (k = 1)) := by
    interval_cases k <;> simp
  simp only [ctrlWord, writeCtrl_ieDone, writeCtrl_ieErr, BitVec.getElem_or, BitVec.getElem_and, hmask]
  obtain rfl | rfl | h : k = 0 ∨ k = 1 ∨ (k ≠ 0 ∧ k ≠ 1) := by omega
  · simp [flagAt_getElem]
  · simp [flagAt_getElem]
  · simp [flagAt_getElem, h]

/-- Settles O56: the layout, the enables in `irq`, and a write, which no lock covers. -/
theorem ctrlLayout : Obligations.CtrlLayout := by
  intro s
  refine ⟨?_, fun hie hd => by simp [irq, hie, hd], fun hie he => by simp [irq, hie, he], fun v rest inp => ?_⟩
  · rw [readWord_ctrl, ctrlWord]
    cases s.ieDone <;> cases s.ieErr <;> rfl
  · exact ⟨_, step_write_loc (l := .ctrl) inp rfl (by simp), rfl, ctrlWord_writeCtrl v _⟩

/-! ## A write to N -/

/-- Settles O40: the write is `storeModulus`, and each word is read back through the address map. -/
theorem modulusWriteInvalidates : Obligations.ModulusWriteInvalidates := by
  intro s i v rest hs hb hi inp
  have hstep : step s = .next (storeModulus i v (beginStep .host rest s)) := by
    rw [step_write_loc inp (locate_bigIndex hs.size.2 hi .n) (by simp)]
    simp [writeLoc, hb, storeBig_n]
  have ht : Sized (storeModulus i v (beginStep .host rest s)) := (hs.beginStep .host rest).storeBig .n i v
  refine ⟨_, hstep, ?_, fun j hj hji => ?_, rfl, by simp, rfl, rfl, rfl, rfl, fun r k hk hn hrr => ?_⟩
  · rw [readWord_bigIndex ht hi]
    exact wordAt_setWordAt_same (by rw [beginStep_n, ← bigReg_n, hs.regs]; exact hi) v
  · rw [readWord_bigIndex ht hj, readWord_bigIndex hs hj]
    exact wordAt_setWordAt_ne (Ne.symm hji) v
  · rw [readWord_bigIndex ht hk, readWord_bigIndex hs hk]
    cases r with
    | n => exact absurd rfl hn
    | rr => exact absurd rfl hrr
    | a | b | e | res => rfl

/-! ## The next command -/

/-- Settles O3: word 3 is CMD whatever the size, and a table word decodes as the CMD value it is. -/
theorem commandWriteStepRunsItsCommand : Obligations.CommandWriteStepRunsItsCommand := by
  refine ⟨fun s v rest i inp hi => step_write_command inp rfl hi, fun s w i hi => ?_⟩
  exact step_write_command (s := s.withFetchWord 32 w) rfl rfl (decode_tableWord hi)

/-! ## Reset -/

theorem value_resetOf (nw : Nat) (r : BigName) : value (resetOf nw) r = 0 := by
  cases r <;> exact limbsValue_zeroLimbs nw

/-- After reset STATUS shows ZERO alone. -/
theorem statusWord_resetOf (nw : Nat) : statusWord (resetOf nw) = 0x00000100#32 := by
  have hz : zeroFlag (resetOf nw) = true := (zeroFlag_iff _).mpr (value_resetOf nw .res)
  have ho : oneFlag (resetOf nw) = false := by simp [oneFlag, value_resetOf]
  rw [statusWord, hz, ho]
  simp [resetOf, flagAt]

/-- Settles O49: the fields by definition, the two words that depend on the size by their lemmas. -/
theorem resetStateValues : Obligations.ResetStateValues := by
  refine ⟨rfl, fun nw hnw => ⟨rfl, fun r => ⟨value_resetOf nw r, by cases r <;> exact zeroLimbs_length nw⟩, ?_⟩⟩
  have hcfg : (readWord (resetOf nw) 1#10).toNat = nw := cfgWord_toNat (s := resetOf nw) hnw
  refine ⟨rfl, rfl, rfl, rfl, rfl, rfl, rfl, rfl, rfl, rfl, rfl, rfl, rfl, rfl, rfl, rfl, hcfg, ?_,
    statusWord_resetOf nw, ?_, rfl⟩
  · simp [ctrlWord, resetOf, flagAt]
  · simp [errinfoWord, resetOf]

end Sys2Proof.Machine
end

section
/-! CUR_OP while BUSY = 0: no read, check or write looks at it, and an acceptance overwrites it. -/

namespace Sys2Proof.Machine

/-- The state with another value in the hidden register CUR_OP (10_state.md R29). -/
def withCurOp (c : Byte) (s : State) : State := { s with curOp := c }

theorem sameButCurOp_withCurOp (c : Byte) (s : State) : SameButCurOp s (withCurOp c s) := rfl

theorem readWord_withCurOp (c : Byte) (s : State) (w : WordIndex) : readWord (withCurOp c s) w = readWord s w := by
  show readLoc (withCurOp c s) (locate s.nw w) = readLoc s (locate s.nw w)
  cases locate s.nw w <;> rfl

theorem checkOf_withCurOp (i : Instr) (c : Byte) (s : State) : checkOf i (withCurOp c s) = checkOf i s := by
  cases i <;> rfl

theorem writeLoc_withCurOp (l : Loc) (v : Word) (c : Byte) (s : State) :
    writeLoc l v (withCurOp c s) = withCurOp c (writeLoc l v s) := by
  cases l with
  | cmd =>
    show writeCommand _ (some _) _ = withCurOp c (writeCommand _ (some _) _)
    cases hl : cmdLocked s
    · rw [writeCommand_refused hl, writeCommand_refused (s := withCurOp c s) hl]; rfl
    · rw [writeCommand_locked hl, writeCommand_locked (s := withCurOp c s) hl]; rfl
  | status => rw [writeLoc, writeLoc, writeStatus_eq, writeStatus_eq]; rfl
  | ftK => cases hb : s.busy <;> simp [writeLoc, withCurOp, hb, lockedWrite]
  | big r i =>
    cases hb : isOperand r && s.busy
    · cases r <;> simp [writeLoc, withCurOp, hb, storeBig, storeModulus, clearFermat]
    · simp [writeLoc, withCurOp, hb, lockedWrite]
  | id | cfg | ctrl | errinfo | ftCount | reserved => rfl

theorem presentRead_withCurOp (w : WordIndex) (c : Byte) (s : State) :
    presentRead w (withCurOp c s) = withCurOp c (presentRead w s) := by
  rw [presentRead, readWord_withCurOp]; rfl

/-- No write but a command's own changes BUSY. -/
theorem writeLoc_busy (l : Loc) (v : Word) (s : State) : (writeLoc l v s).busy = s.busy := by
  rcases writeLoc_cases l v s with e | ⟨_, e⟩ | ⟨_, e⟩ | ⟨_, e⟩ | ⟨_, _, e⟩ | ⟨_, _, e⟩ | ⟨r, i, _, _, _, e⟩ <;>
    simp [e]

/-- What is claimed of the next states `u` and `w` of two idle states that differ in CUR_OP alone. -/
def AgreesBeyondCurOp (u w : State) : Prop :=
  SameButCurOp u w ∧ u.rdata = w.rdata ∧ (u.busy = true → u.curOp = w.curOp)

/-- An idle next state keeps the difference. -/
theorem agrees_withCurOp {u : State} (hb : u.busy = false) (c : Byte) : AgreesBeyondCurOp u (withCurOp c u) :=
  ⟨sameButCurOp_withCurOp c u, rfl, by simp [hb]⟩

/-- An acceptance writes CUR_OP, and the other outcomes of a CMD write leave the block idle. -/
theorem writeCommand_agrees (op : Byte) (verdict : Option ErrCode) {s : State} (hb : s.busy = false) (c : Byte) :
    AgreesBeyondCurOp (writeCommand op verdict s) (writeCommand op verdict (withCurOp c s)) := by
  rcases writeCommand_cases op verdict s with ⟨hl, e⟩ | ⟨hl, x, rfl, e⟩ | ⟨hl, rfl, e⟩
  · rw [e, writeCommand_locked (s := withCurOp c s) hl]
    exact agrees_withCurOp (u := lockedWrite s) hb c
  · rw [e, writeCommand_refused (s := withCurOp c s) hl]
    exact agrees_withCurOp (u := raiseError x op s) hb c
  · rw [e, writeCommand_accepted (s := withCurOp c s) hl]
    exact ⟨rfl, rfl, fun _ => rfl⟩

/-- Two idle states that differ in CUR_OP alone take the same step. -/
theorem step_withCurOp {s u : State} (hb : s.busy = false) (c : Byte) (h : step s = .next u) :
    ∃ w, step (withCurOp c s) = .next w ∧ AgreesBeyondCurOp u w := by
  rcases step_next_cases h with ⟨w, rest, inp, rfl⟩ | ⟨w, v, rest, i, inp, hw, hi, rfl⟩ |
    ⟨w, v, rest, inp, hno, rfl⟩ | ⟨_, busy, _⟩ | ⟨hn, _, rfl⟩ | ⟨rest, inp, rfl⟩
  · refine ⟨_, step_read (s := withCurOp c s) inp, ?_⟩
    show AgreesBeyondCurOp _ (presentRead w (withCurOp c (beginStep .host rest s)))
    rw [presentRead_withCurOp]
    exact agrees_withCurOp (u := presentRead w (beginStep .host rest s)) hb c
  · rw [step_write_command (s := withCurOp c s) inp hw hi, exec_eq_runCommand, runCommand_host rfl]
    refine ⟨_, rfl, ?_⟩
    show AgreesBeyondCurOp _ (writeCommand _ (checkOf i (withCurOp c (beginStep .host rest s)))
      (withCurOp c (beginStep .host rest s)))
    rw [checkOf_withCurOp]
    exact writeCommand_agrees _ _ (s := beginStep .host rest s) hb c
  · refine ⟨_, step_write_other (s := withCurOp c s) inp hno, ?_⟩
    show AgreesBeyondCurOp _ (writeLoc (locate s.nw w) v (withCurOp c (beginStep .host rest s)))
    rw [writeLoc_withCurOp]
    exact agrees_withCurOp ((writeLoc_busy _ _ (beginStep .host rest s)).trans hb) c
  · simp [hb] at busy
  · exact ⟨_, step_engine_idle (s := withCurOp c s) hn hb, agrees_withCurOp (u := beginStep _ _ s) hb c⟩
  · exact ⟨_, step_reset (s := withCurOp c s) inp, rfl, rfl, fun _ => rfl⟩

/-- Settles O34: the other state is the first with another CUR_OP, and its step is that of `step_withCurOp`. -/
theorem curOpIsHiddenWhileIdle : Obligations.CurOpIsHiddenWhileIdle := by
  intro s t u hb hsame h
  have ht : withCurOp t.curOp s = t := hsame
  rw [← ht]
  exact step_withCurOp hb _ h

end Sys2Proof.Machine
end

section
/-! Host reads and host writes by word index (20_memory.md R71 to R78). -/

namespace Sys2Proof.Machine

/-! ## Where a word index leads -/

theorem controlLoc_of_le {k : Nat} (h : 8 ≤ k) : controlLoc k = .reserved := by
  match k, h with
  | _ + 8, _ => rfl

theorem windowOf_of_le {k : Nat} (h : 7 ≤ k) : windowOf k = none := by
  match k, h with
  | _ + 7, _ => rfl

/-- No word of a register and no control register is at an unassigned index (20_memory.md R71). -/
theorem locate_of_unassigned {nw : Nat} {w : WordIndex} (h : Unassigned nw w) : locate nw w = .reserved := by
  unfold locate
  rcases h with ⟨hlo, hhi⟩ | hhi | ⟨hlo, -, hnw⟩
  · rw [if_pos hhi, controlLoc_of_le hlo]
  · rw [if_neg (by omega), windowOf_of_le (by omega)]
  · rw [if_neg (by omega)]
    split
    · exact if_neg (by omega)
    · rfl

/-! ## Reads (20_memory.md R74) -/

/-- What a location holds does not depend on the model's own fields. -/
theorem readWord_beginStep (t : Agent) (rest : List Event) (s : State) (w : WordIndex) :
    readWord (beginStep t rest s) w = readWord s w := by
  rw [readWord, readWord, beginStep_nw]
  cases locate s.nw w with
  | big r i => cases r <;> rfl
  | id | cfg | ctrl | cmd | status | errinfo | ftK | ftCount | reserved => rfl

/-- Settles O35: the step presents the read, and the word presented is the one read before the step. -/
theorem readHasNoSideEffect : Obligations.ReadHasNoSideEffect := by
  intro s w rest inp
  rw [step_read inp, presentRead, readWord_beginStep]
  rfl

theorem ctrlWord_getLsbD (s : State) (k : Nat) : (ctrlWord s).getLsbD k =
    ((s.ieDone && decide (k = 0)) || (s.ieErr && decide (k = 1))) := by
  simp [ctrlWord, flagAt_getLsbD]

/-- A read in a window of any instance size in range, whatever the length of the register's list. -/
theorem readWord_window {s : State} {i : Nat} (hnw : s.nw ≤ Config.maxNW) (hi : i < s.nw) (r : BigName) :
    readWord s (bigIndex r i) = wordAt (bigReg s r) i := by
  rw [readWord, locate_bigIndex hnw hi, readLoc]

theorem readWord_of_unassigned {s : State} {w : WordIndex} (h : Unassigned s.nw w) : readWord s w = 0#32 := by
  rw [readWord, locate_of_unassigned h, readLoc]

/-- Settles O36: the constants and FT_K, FT_COUNT by definition, CFG and CTRL by their fields, the six windows by the
address map, every other index as reserved. -/
theorem addressMapContents : Obligations.AddressMapContents := by
  intro s hnw
  have hctrl : (readWord s 2#10)[0] = s.ieDone ∧ (readWord s 2#10)[1] = s.ieErr ∧
      ∀ k, 2 ≤ k → (readWord s 2#10).getLsbD k = false := by
    simp only [← BitVec.getLsbD_eq_getElem, readWord_ctrl, ctrlWord_getLsbD]
    refine ⟨by simp, by simp, fun k hk => ?_⟩
    have hk' : k ≠ 0 ∧ k ≠ 1 := by omega
    simp [hk']
  exact ⟨rfl, cfgWord_toNat hnw, hctrl, rfl, rfl, rfl,
    fun _ hi => readWord_window hnw hi .n, fun _ hi => readWord_window hnw hi .a,
    fun _ hi => readWord_window hnw hi .b, fun _ hi => readWord_window hnw hi .e,
    fun _ hi => readWord_window hnw hi .res, fun _ hi => readWord_window hnw hi .rr,
    fun _ hw => readWord_of_unassigned hw⟩

/-! ## Writes of CMD (30_encoding.md R104, 40_common.md R130) -/

/-- The eight command values are below 8, so a value from 8 on is no command. -/
theorem encode_toNat_lt (i : Instr) : (encode i).toNat < 8 := by cases i <;> decide

theorem decode_ne_ok_of_le {v : Word} (h : 8 ≤ v.toNat) : ¬∃ i, decode v = .ok i := by
  rintro ⟨i, hi⟩
  rw [encode_of_decode hi] at h
  exact absurd (encode_toNat_lt i) (Nat.not_lt.mpr h)

/-- The write of a value that is no command. -/
theorem step_write_no_command {s : State} {v : Word} {rest : List Event} (inp : WritesCmd s v rest)
    (hv : ¬∃ i, decode v = .ok i) : step s = .next (writeIllegalCommand v (beginStep .host rest s)) :=
  step_write_other inp fun h => hv h.2

/-- A locked CMD drops the write of every value, without decoding it (20_memory.md R77). -/
theorem step_write_cmd_locked {s : State} {v : Word} {rest : List Event} (inp : WritesCmd s v rest)
    (lock : cmdLocked s = true) : step s = .next (lockedWrite (beginStep .host rest s)) := by
  have lock' : cmdLocked (beginStep .host rest s) = true := lock
  by_cases hv : ∃ i, decode v = .ok i
  · obtain ⟨i, hi⟩ := hv
    rw [step_write_command inp rfl hi, exec_eq_runCommand, runCommand_host rfl, writeCommand_locked lock']
  · rw [step_write_no_command inp hv, writeIllegalCommand, writeCommand_locked lock']

/-- A free CMD refuses a value that is no command with ILLEGAL_CMD. -/
theorem step_write_cmd_illegal {s : State} {v : Word} {rest : List Event} (inp : WritesCmd s v rest)
    (free : cmdLocked s = false) (hv : 8 ≤ v.toNat) :
    step s = .next (raiseError .illegalCmd (opcodeField v) (beginStep .host rest s)) := by
  rw [step_write_no_command inp (decode_ne_ok_of_le hv), writeIllegalCommand,
    writeCommand_refused (s := beginStep _ _ s) free]

/-! ## Writes of the other locations (20_memory.md R75, R77, R78) -/

section
variable {s : State} {w : WordIndex} {v : Word} {rest : List Event}

theorem step_write_trialCount (inp : s.inputs = .write 6#10 v :: rest) :
    step s = .next (if s.busy then lockedWrite (beginStep .host rest s)
      else { beginStep .host rest s with ftK := v }) :=
  step_write_loc (l := .ftK) inp rfl (by simp)

/-- While a command is in flight every word of N, A, B and E is locked (R77). -/
theorem step_write_big_locked {r : BigName} {i : Nat} (inp : s.inputs = .write (bigIndex r i) v :: rest)
    (hnw : s.nw ≤ Config.maxNW) (hi : i < s.nw) (hr : isOperand r = true) (hb : s.busy = true) :
    step s = .next (lockedWrite (beginStep .host rest s)) := by
  rw [step_write_loc inp (locate_bigIndex hnw hi r) (by simp)]
  simp [writeLoc, hr, hb]

/-- Where no lock holds, the write is the register's store. -/
theorem step_write_big_stored {r : BigName} {i : Nat} (inp : s.inputs = .write (bigIndex r i) v :: rest)
    (hnw : s.nw ≤ Config.maxNW) (hi : i < s.nw) (free : (isOperand r && s.busy) = false) :
    step s = .next (storeBig r i v (beginStep .host rest s)) := by
  rw [step_write_loc inp (locate_bigIndex hnw hi r) (by simp)]
  simp [writeLoc, free]

/-- A read-only or unassigned index: no flag, in every state of the block (R78). -/
theorem step_write_readOnly (inp : s.inputs = .write w v :: rest)
    (hw : w = 0#10 ∨ w = 1#10 ∨ w = 5#10 ∨ w = 7#10 ∨ Unassigned s.nw w) :
    step s = .next (beginStep .host rest s) := by
  rcases hw with rfl | rfl | rfl | rfl | hw
  · exact step_write_loc (l := .id) inp rfl (by simp)
  · exact step_write_loc (l := .cfg) inp rfl (by simp)
  · exact step_write_loc (l := .errinfo) inp rfl (by simp)
  · exact step_write_loc (l := .ftCount) inp rfl (by simp)
  · exact step_write_loc inp (locate_of_unassigned hw) (by simp)

end

/-- Settles O39: each kind of location by the lemma about its write. -/
theorem hostWriteByLocation : Obligations.HostWriteByLocation := by
  intro s w v rest hnw inp
  refine ⟨?ctrl, ?status, ?cmdLocked, ?cmdIllegal, ?cmdCommand, ?trialCount, ?bigLocked, ?modulus, ?a, ?b, ?e,
    step_write_readOnly inp, ?result⟩
  case ctrl =>
    rintro rfl
    exact step_write_loc (l := .ctrl) inp rfl (by simp)
  case status =>
    rintro rfl
    rw [step_write_loc (l := .status) inp rfl (by simp), writeLoc, writeStatus_eq]
    rfl
  case cmdLocked =>
    rintro rfl lock
    exact step_write_cmd_locked inp ((cmdLocked_eq_true_iff s).mpr lock)
  case cmdIllegal =>
    rintro rfl hb he hv
    exact step_write_cmd_illegal inp ((cmdLocked_eq_false_iff s).mpr ⟨hb, he⟩) hv
  case cmdCommand =>
    rintro i rfl rfl
    exact step_write_command inp rfl ((decode_eq_ok_iff _ i).mpr rfl)
  case trialCount =>
    rintro rfl
    exact step_write_trialCount inp
  case bigLocked =>
    rintro r i hi hr rfl hb
    exact step_write_big_locked inp hnw hi ((isOperand_iff r).mpr hr) hb
  case result =>
    rintro r i hi (rfl | rfl) rfl <;> exact step_write_big_stored inp hnw hi rfl
  case modulus | a | b | e =>
    rintro i hi rfl hb
    exact step_write_big_stored inp hnw hi (by rw [hb]; rfl)

end Sys2Proof.Machine
end

section
/-! The decoder's accepted values, the CMD write in the order of its causes, LOAD, and reads left out of a run. -/

namespace Sys2Proof.Machine

/-! ## The decoder (30_encoding.md R103 to R105) -/

/-- Settles O1: the equivalence is `decode_eq_ok_iff`, the eight values are the encoder's by definition. -/
theorem decoderAcceptsExactlyTheEightValues : Obligations.DecoderAcceptsExactlyTheEightValues :=
  ⟨decode_eq_ok_iff, rfl, rfl, rfl, rfl, rfl, rfl, rfl, rfl⟩

/-- Settles O2, by running the decoder on the six words. -/
theorem tableWordsDecodeToTheirCommands : Obligations.TableWordsDecodeToTheirCommands :=
  ⟨rfl, rfl, rfl, rfl, rfl, rfl⟩

/-! ## What each check refuses (41_montgomery.md R152, R155, 43_fermat.md R204) -/

section
variable {s : State}

theorem checkSetup_even (even : value s .n % 2 = 0) : checkSetup s = some .modEven := by
  simp [checkSetup, (isOdd_eq_false_iff _).mpr even]

theorem setupCheck_invalid (invalid : s.modvalid = false) : setupCheck s = some .noSetup := by
  simp [setupCheck, invalid]

theorem checkMontmul_invalid (invalid : s.modvalid = false) : checkMontmul s = some .noSetup := by
  simp [checkMontmul, invalid]

theorem checkMontmul_range (valid : s.modvalid = true)
    (range : value s .n ≤ value s .a ∨ value s .n ≤ value s .b) : checkMontmul s = some .operandRange := by
  simp [checkMontmul, valid, range]

theorem checkFermat_even (large : 4 ≤ value s .n) (even : value s .n % 2 = 0) : checkFermat s = some .modEven := by
  rw [checkFermat, if_neg (by omega), (isOdd_eq_false_iff _).mpr even]
  rfl

/-- From an odd N of 4 on, MODVALID and then the base decide. -/
theorem checkFermat_odd (large : 4 ≤ value s .n) (odd : value s .n % 2 = 1) :
    checkFermat s = if !s.modvalid then some .noSetup
      else if value s .a = 0 ∨ value s .n ≤ value s .a then some .baseRange else none := by
  rw [checkFermat, if_neg (by omega), (isOdd_iff _).mpr odd]
  rfl

theorem checkFermat_invalid (large : 4 ≤ value s .n) (odd : value s .n % 2 = 1) (invalid : s.modvalid = false) :
    checkFermat s = some .noSetup := by
  simp [checkFermat_odd large odd, invalid]

theorem checkFermat_base (large : 4 ≤ value s .n) (odd : value s .n % 2 = 1) (valid : s.modvalid = true)
    (range : value s .a = 0 ∨ value s .n ≤ value s .a) : checkFermat s = some .baseRange := by
  simp [checkFermat_odd large odd, valid, range]

end

/-! ## The write of a command's value to a free CMD (40_common.md R130 to R132) -/

section
variable {s : State} {rest : List Event} {i : Instr}

/-- The outcome is decided by the lock and by the command's check on the state before the step. -/
theorem step_write_cmd_decided (inp : WritesCmd s (encode i) rest) :
    step s = .next (writeCommand (opcode i) (checkOf i s) (beginStep .host rest s)) := by
  rw [step_write_command inp rfl ((decode_eq_ok_iff _ i).mpr rfl), exec_eq_runCommand, runCommand_host rfl,
    checkOf_beginStep]

theorem step_write_cmd_refused {c : ErrCode} (inp : WritesCmd s (encode i) rest) (free : cmdLocked s = false)
    (cause : checkOf i s = some c) : step s = .next (raiseError c (opcode i) (beginStep .host rest s)) := by
  rw [step_write_cmd_decided inp, cause, writeCommand_refused (s := beginStep _ _ s) free]

theorem step_write_cmd_accepted (inp : WritesCmd s (encode i) rest) (free : cmdLocked s = false)
    (adm : Admitted s i) : step s = .next (acceptCommand (opcode i) (beginStep .host rest s)) := by
  rw [step_write_cmd_decided inp, (checkOf_eq_none_iff i s).mpr adm, writeCommand_accepted (s := beginStep _ _ s) free]

end

/-- Settles O5: the lock first, then the decoder, then the check of the command written. -/
theorem commandWriteIsDroppedOrRefusedInOrder : Obligations.CommandWriteIsDroppedOrRefusedInOrder := by
  intro s v rest inp
  refine ⟨fun lock => step_write_cmd_locked inp ((cmdLocked_eq_true_iff s).mpr lock), fun hb he => ?_⟩
  have free : cmdLocked s = false := (cmdLocked_eq_false_iff s).mpr ⟨hb, he⟩
  refine ⟨step_write_cmd_illegal inp free, ?setup, ?montmulSetup, ?montmulRange, ?tomont, ?frommont, ?modexp,
    ?fermatEven, ?fermatSetup, ?fermatBase, ?accepted⟩
  case setup =>
    rintro rfl even
    exact step_write_cmd_refused (i := .setup) inp free (checkSetup_even even)
  case montmulSetup =>
    rintro rfl invalid
    exact step_write_cmd_refused (i := .montmul) inp free (checkMontmul_invalid invalid)
  case montmulRange =>
    rintro rfl valid range
    exact step_write_cmd_refused (i := .montmul) inp free (checkMontmul_range valid range)
  case tomont =>
    rintro rfl invalid
    exact step_write_cmd_refused (i := .tomont) inp free (setupCheck_invalid invalid)
  case frommont =>
    rintro rfl invalid
    exact step_write_cmd_refused (i := .frommont) inp free (setupCheck_invalid invalid)
  case modexp =>
    rintro rfl invalid
    exact step_write_cmd_refused (i := .modexp) inp free (setupCheck_invalid invalid)
  case fermatEven =>
    rintro rfl large even
    exact step_write_cmd_refused (i := .fermat) inp free (checkFermat_even large even)
  case fermatSetup =>
    rintro rfl large odd invalid
    exact step_write_cmd_refused (i := .fermat) inp free (checkFermat_invalid large odd invalid)
  case fermatBase =>
    rintro rfl large odd valid range
    exact step_write_cmd_refused (i := .fermat) inp free (checkFermat_base large odd valid range)
  case accepted =>
    rintro i rfl adm
    exact step_write_cmd_accepted inp free adm

/-! ## LOAD (30_encoding.md R109) -/

/-- The state after performed writes to register `r` that leave the words `ws` in it: what one write does
(`storeBig_eq_storeWords`) and what a whole LOAD does (`runEvents_loadEvents`). -/
def storeWords (r : BigName) (ws : Limbs) (s : State) : State :=
  match r with
  | .n => clearFermat { s with n := ws, modvalid := false, rr := zeroLimbs s.nw }
  | .a => { s with a := ws }
  | .b => { s with b := ws }
  | .e => { s with e := ws }
  | .res => s
  | .rr => s

theorem storeBig_eq_storeWords (r : BigName) (i : Nat) (v : Word) (s : State) :
    storeBig r i v s = storeWords r (setWordAt (bigReg s r) i v) s := by cases r <;> rfl

/-- Of two stores to one register the last one stays. -/
theorem storeWords_storeWords (r : BigName) (ws ws' : Limbs) (s : State) :
    storeWords r ws (storeWords r ws' s) = storeWords r ws s := by cases r <;> rfl

theorem bigReg_storeWords_same {r : BigName} (hr : isOperand r = true) (ws : Limbs) (s : State) :
    bigReg (storeWords r ws s) r = ws := by
  obtain rfl | rfl | rfl | rfl := (isOperand_iff r).mp hr <;> rfl

@[simp] theorem storeWords_busy (r : BigName) (ws : Limbs) (s : State) : (storeWords r ws s).busy = s.busy := by
  cases r <;> rfl

theorem beginStep_storeWords (r : BigName) (ws : Limbs) (t : Agent) (rest : List Event) (s : State) :
    beginStep t rest (storeWords r ws s) = storeWords r ws (beginStep t rest s) := by cases r <;> rfl

theorem setWordAt_append_cons (pre : Limbs) (x : Word) (old : Limbs) (w : Word) :
    setWordAt (pre ++ x :: old) pre.length w = pre ++ w :: old := by simp [setWordAt]

section
variable {r : BigName} (hr : isOperand r = true)
include hr

/-- The write of the word after `pre` replaces the one word that stood there. -/
theorem step_storeWord_append {pre old : Limbs} {x : Word} {s : State} (hs : Sized s) (hb : s.busy = false)
    (hreg : bigReg s r = pre ++ x :: old) (w : Word) :
    step (withEvents [.write (bigIndex r pre.length) w] s) =
      .next (storeWords r (pre ++ w :: old) (beginStep .host [] s)) := by
  have hi : pre.length < s.nw := by
    rw [← hs.regs r, hreg]
    simp
  rw [step_storeWord hs.size.2 hb hi hr, storeBig_eq_storeWords, bigReg_beginStep, hreg, setWordAt_append_cons]

/-- The writes of one or more words in rising order, from the end of `pre` on, replace the words that stood there. -/
theorem runEvents_storeEvents {pre old ws : Limbs} {x w : Word} {s : State} (hs : Sized s) (hb : s.busy = false)
    (hreg : bigReg s r = pre ++ x :: old) (hlen : old.length = ws.length) :
    runEvents (storeEvents r pre.length (w :: ws)) s =
      .next (storeWords r (pre ++ w :: ws) (beginStep .host [] s)) := by
  induction ws generalizing pre x old w s with
  | nil =>
    obtain rfl : old = [] := by simpa using hlen
    rw [storeEvents, runEvents_cons (step_storeWord_append hr hs hb hreg w)]
    cases r <;> rfl
  | cons w' ws ih =>
    obtain ⟨x', old, rfl⟩ := List.exists_cons_of_length_eq_add_one hlen
    have hstep := step_storeWord_append hr hs hb hreg w
    have hrest := ih (pre := pre ++ [w]) (w := w') (Sized.step (s := withEvents [_] s) ⟨hs.size, hs.regs⟩ hstep)
      (by rw [storeWords_busy]; exact hb) (by rw [bigReg_storeWords_same hr, List.append_cons]) (by simpa using hlen)
    rw [List.length_append, List.length_singleton] at hrest
    rw [storeEvents, runEvents_cons hstep, hrest, beginStep_storeWords, storeWords_storeWords, ← List.append_cons]
    rfl

end

/-- `LOAD X, v` leaves the words of v in X, with the side effects of a write to X. -/
theorem runEvents_loadEvents {r : BigName} (hr : isOperand r = true) {s : State} (hs : Sized s) (hb : s.busy = false)
    (v : Nat) : runEvents (loadEvents s.nw r v) s = .next (storeWords r (limbsOf s.nw v) (beginStep .host [] s)) := by
  obtain ⟨k, hk⟩ : ∃ k, s.nw = k + 1 := ⟨s.nw - 1, by have := hs.size.1; omega⟩
  obtain ⟨x, old, hreg⟩ := List.exists_cons_of_length_eq_add_one ((hs.regs r).trans hk)
  have hlen : old.length = k := by
    have := hs.regs r
    rw [hreg, hk] at this
    simpa using this
  rw [loadEvents, hk, limbsOf]
  exact runEvents_storeEvents hr (pre := []) hs hb hreg (by simp [hlen])

theorem value_storeWords_limbsOf {r : BigName} (hr : isOperand r = true) {nw v : Nat} (hv : v < 2 ^ (32 * nw))
    (s : State) : value (storeWords r (limbsOf nw v) s) r = v := by
  rw [value, bigReg_storeWords_same hr, limbsValue_limbsOf_of_lt hv]

/-- Settles O29: the run of each LOAD is `runEvents_loadEvents`, whose state has the other fields as stated. -/
theorem loadWritesTheWholeRegister : Obligations.LoadWritesTheWholeRegister := by
  intro s v hs hb hv
  have hload : ∀ r, isOperand r = true →
      runEvents (loadEvents s.nw r v) s = .next (storeWords r (limbsOf s.nw v) (beginStep .host [] s)) ∧
      value (storeWords r (limbsOf s.nw v) (beginStep .host [] s)) r = v :=
    fun r hr => ⟨runEvents_loadEvents hr hs hb v, value_storeWords_limbsOf hr hv _⟩
  obtain ⟨runN, valueN⟩ := hload .n rfl
  obtain ⟨runA, valueA⟩ := hload .a rfl
  obtain ⟨runB, valueB⟩ := hload .b rfl
  obtain ⟨runE, valueE⟩ := hload .e rfl
  exact ⟨⟨_, runN, valueN, rfl, limbsValue_zeroLimbs _, rfl, rfl, rfl, rfl, rfl, rfl, rfl, rfl, rfl⟩,
    ⟨_, runA, valueA, rfl⟩, ⟨_, runB, valueB, rfl⟩, ⟨_, runE, valueE, rfl⟩⟩

/-! ## Reads left out of a run (30_encoding.md R110) -/

/-- Two states that differ in the model's turn and read data at most. -/
def SameButPort (u t : State) : Prop := { u with turn := t.turn, rdata := t.rdata } = t

/-- A step sets turn and read data before it looks at anything. -/
theorem SameButPort.step_eq {u t : State} (h : SameButPort u t) : step u = step t := by
  rw [← h]
  rfl

theorem SameButPort.withEvents {u t : State} (h : SameButPort u t) (es : List Event) :
    SameButPort (withEvents es u) (withEvents es t) := congrArg (Machine.withEvents es) h

/-- A run of one event or more does not depend on the two fields, and the empty run keeps the difference. -/
theorem SameButPort.runEvents {u t t' : State} (h : SameButPort u t) {es : List Event}
    (ht : Machine.runEvents es t = .next t') :
    ∃ u', Machine.runEvents es u = .next u' ∧ SameButPort u' t' := by
  cases es with
  | nil =>
    cases ht
    exact ⟨_, rfl, h.withEvents []⟩
  | cons ev es =>
    obtain ⟨t₁, hstep, hrun⟩ := runEvents_cons_next ht
    refine ⟨t', ?_, rfl⟩
    rw [runEvents_cons ((h.withEvents [ev]).step_eq.trans hstep), hrun]

theorem SameButPort.trans {u t t' : State} (h : SameButPort u t) (h' : SameButPort t t') : SameButPort u t' := by
  unfold SameButPort at *
  rw [← h', ← h]

/-- Any events that are all reads can be left out of a run. -/
theorem runEvents_filter {p : Event → Bool} (hp : ∀ ev, p ev = false → ∃ w, ev = .read w) {es : List Event}
    {s t : State} (h : runEvents es s = .next t) : ∃ u, runEvents (es.filter p) s = .next u ∧ SameButPort u t := by
  induction es generalizing s with
  | nil => exact ⟨t, h, rfl⟩
  | cons ev es ih =>
    obtain ⟨s', hstep, hrun⟩ := runEvents_cons_next h
    obtain ⟨u, hu, hut⟩ := ih hrun
    cases hev : p ev with
    | true =>
      refine ⟨u, ?_, hut⟩
      rw [List.filter_cons_of_pos hev, runEvents_cons hstep, hu]
    | false =>
      obtain ⟨w, rfl⟩ := hp ev hev
      rw [List.filter_cons_of_neg (by simp [hev])]
      rw [step_read rfl] at hstep
      have hs' : SameButPort (withEvents [] s) s' := by
        cases hstep
        rfl
      obtain ⟨u', hu', hsame⟩ := hs'.runEvents hu
      exact ⟨u', hu', hsame.trans hut⟩

/-- Settles O33: the events that the filter drops are reads. -/
theorem discardedReadsChangeNothing : Obligations.DiscardedReadsChangeNothing := by
  intro s t es h
  refine runEvents_filter (fun ev dropped => ?_) h
  cases ev with
  | read w => exact ⟨w, rfl⟩
  | write | engine | reset => cases dropped

end Sys2Proof.Machine
end

section
/-! The life of a command as `exec` gives it: dropped, accepted, completed (40_common.md R130 to R134). -/

namespace Sys2Proof.Machine

section
variable {s : State} {i : Instr}

theorem exec_locked (host : s.turn = .host) (lock : s.busy = true ∨ s.err = true) :
    exec i s = .next (lockedWrite s) := by
  rw [exec_eq_runCommand, runCommand_host host, writeCommand_locked ((cmdLocked_eq_true_iff s).mpr lock)]

theorem exec_accepted (ready : HostReady s) (adm : Admitted s i) : exec i s = .next (acceptCommand (opcode i) s) := by
  obtain ⟨host, hb, he⟩ := ready
  rw [exec_eq_runCommand, runCommand_host host, (checkOf_eq_none_iff i s).mpr adm,
    writeCommand_accepted ((cmdLocked_eq_false_iff s).mpr ⟨hb, he⟩)]

theorem exec_inFlight (flight : InFlight s i) : exec i s = .next (finishCommand (effectOf i s)) := by
  obtain ⟨engine, hb, hop⟩ := flight
  rw [exec_eq_runCommand, runCommand_engine engine, completeCommand_inFlight hb hop]

end

/-- No command's step faults or is refused, in either turn. -/
theorem exec_next (i : Instr) (s : State) : ∃ t, exec i s = .next t := by
  rw [exec_eq_runCommand]
  cases hturn : s.turn with
  | host => exact ⟨_, runCommand_host hturn _ _ _⟩
  | engine => exact ⟨_, runCommand_engine hturn _ _ _⟩

/-- Settles O7: NOP's condition is always met and its effect is none. -/
theorem nopIsAcceptedAndChangesNothing : Obligations.NopIsAcceptedAndChangesNothing :=
  fun _ => ⟨fun ready => exec_accepted ready trivial, exec_locked, exec_inFlight⟩

/-- Settles O6: the acceptance is `exec_accepted`, and each of the locked locations drops the write. -/
theorem admittedCommandIsAccepted : Obligations.AdmittedCommandIsAccepted := by
  refine ⟨fun i s ready adm => exec_accepted ready adm, fun s w v rest hnw hb inp locked => ?_⟩
  rcases locked with rfl | rfl | ⟨r, i, hi, hr, rfl⟩
  · exact step_write_cmd_locked inp ((cmdLocked_eq_true_iff s).mpr (.inl hb))
  · rw [step_write_trialCount inp, if_pos hb]
    rfl
  · exact step_write_big_locked inp hnw hi ((isOperand_iff r).mpr hr) hb

end Sys2Proof.Machine
end

section
/-! A step goes on where the command in flight decodes, and takes one event: no run stops, and after the last event and
one turn of the engine no command is in flight (40_common.md R134, R135). -/

namespace Sys2Proof.Machine

/-- The model's one fault needs a command in flight whose opcode is none (log 4). -/
theorem step_completes {s : State} (decodes : s.busy = true → ∃ i, s.curOp = opcode i) : Completes s := by
  have engineGoesOn (hn : EngineNext s) : Completes s := by
    cases hb : s.busy
    · exact ⟨_, step_engine_idle hn hb⟩
    · obtain ⟨i, hop⟩ := decodes hb
      rw [Completes, step_engine_busy hn hb (by rw [hop, instrOfOpcode_opcode])]
      exact exec_next i _
  cases hs : s.inputs with
  | nil => exact engineGoesOn (.inl hs)
  | cons ev rest =>
    cases ev with
    | read w => exact ⟨_, step_read hs⟩
    | write w v =>
      by_cases hw : locate s.nw w = .cmd ∧ ∃ i, decode v = .ok i
      · obtain ⟨hw, i, hi⟩ := hw
        rw [Completes, step_write_command hs hw hi]
        exact exec_next i _
      · exact ⟨_, step_write_other hs hw⟩
    | engine => exact engineGoesOn (.inr (by rw [hs]; rfl))
    | reset => exact ⟨_, step_reset hs⟩

theorem BlockInv.completes {s : State} (h : BlockInv s) : Completes s :=
  step_completes fun hb => (h.inFlight hb).imp fun _ => And.left

/-- Settles O54: in a state that meets the invariant the command in flight decodes. -/
theorem noReachableStateStops : Obligations.NoReachableStateStops :=
  ⟨fun _ => BlockInv.completes, fun _ h => h.blockInv.completes⟩

/-- A step takes the next event, if there is one, and adds none. -/
theorem step_inputs {s t : State} (h : step s = .next t) : t.inputs = s.inputs.tail := by
  cases stepKind_of_step h with
  | read inp | ignored inp | dropped inp _ | ctrl inp | trialCount inp _ | refused inp _ _ _
  | accepted inp _ _ _ | reset inp => rw [inp]; rfl
  | status inp => rw [inp, writeStatus_eq]; rfl
  | stored inp _ _ _ => rw [inp, storeBig_frame]; rfl
  | completed _ _ _ => rw [effectOf_frame]; rfl
  | idle _ _ => rfl

/-- No command is in flight after the engine's turn. -/
theorem idle_of_engineNext {s t : State} (hn : EngineNext s) (h : step s = .next t) : t.busy = false := by
  cases hb : s.busy
  · rw [step_engine_idle hn hb] at h
    cases h
    exact hb
  · obtain ⟨i, _, rfl⟩ := completes_of_engineNext hn hb h
    rfl

/-- A run through the events to come and one turn of the engine. -/
theorem BlockInv.run_to_idle {s : State} {es : List Event} (h : BlockInv s) (inp : s.inputs = es) :
    ∃ t, Sys2Proof.core.run (es.length + 1) s = .next t ∧ t.busy = false ∧ t.inputs = [] := by
  induction es generalizing s with
  | nil =>
    obtain ⟨t, hstep⟩ := h.completes
    refine ⟨t, core_run_succ hstep, idle_of_engineNext (.inl inp) hstep, ?_⟩
    rw [step_inputs hstep, inp]
    rfl
  | cons ev es ih =>
    obtain ⟨u, hstep⟩ := h.completes
    obtain ⟨t, hrun, ht⟩ := ih (h.step hstep) (by rw [step_inputs hstep, inp]; rfl)
    exact ⟨t, (core_run_succ hstep).trans hrun, ht⟩

/-- Settles O55: the run is `BlockInv.run_to_idle`, and the engine's turn with a command in flight is its completion. -/
theorem acceptedCommandTerminates : Obligations.AcceptedCommandTerminates := by
  refine fun s h => ⟨h.run_to_idle rfl, fun hb inp => ?_⟩
  obtain ⟨t, hstep⟩ := h.completes
  obtain ⟨i, _, rfl⟩ := completes_of_engineNext (.inl inp) hb hstep
  exact ⟨_, hstep, rfl, rfl⟩

end Sys2Proof.Machine
end

section
/-! Host accesses while a command is in flight: they leave everything the completion reads (20_memory.md R77,
40_common.md R134). -/

namespace Sys2Proof.Machine

/-- The state `s` with those fields of `h` that the host can still change while a command is in flight: CTRL, DONE, ERR,
WIGN, ERRINFO and the model's own. -/
def withHostSide (h s : State) : State :=
  { s with
    ieDone := h.ieDone, ieErr := h.ieErr, done := h.done, err := h.err, wign := h.wign
    errCode := h.errCode, errOp := h.errOp, inputs := h.inputs, turn := h.turn, rdata := h.rdata }

/-- Two states that differ in those fields at most. -/
def SameButHostSide (s t : State) : Prop := withHostSide t s = t

theorem SameButHostSide.trans {s t u : State} (h : SameButHostSide s t) (h' : SameButHostSide t u) :
    SameButHostSide s u := by
  unfold SameButHostSide at *
  rw [← h', ← h]
  rfl

theorem SameButHostSide.flight {s t : State} (h : SameButHostSide s t) : t.busy = s.busy ∧ t.curOp = s.curOp := by
  rw [← h]
  exact ⟨rfl, rfl⟩

theorem value_withHostSide (h s : State) (r : BigName) : value (withHostSide h s) r = value s r := by cases r <;> rfl

/-- No completion's effect looks at the host's side or changes it. -/
theorem effectOf_withHostSide (i : Instr) (h s : State) :
    effectOf i (withHostSide h s) = withHostSide h (effectOf i s) := by
  cases i with
  | fermat =>
    simp only [effectOf, effectFermat, fermatTrial, value_withHostSide, apply_ite (withHostSide h)]
    rfl
  | nop | setup | montmul | tomont | frommont | modexp | ftinit => rfl

/-- While a command is in flight an access is a read, a dropped write, or a write to the host's side. -/
theorem access_inFlight {s t : State} {ev : Event} (hb : s.busy = true) (access : isAccess ev = true)
    (h : step (withEvents [ev] s) = .next t) : SameButHostSide s t := by
  cases stepKind_of_step h with
  | read _ | ignored _ | dropped _ _ | ctrl _ => rfl
  | status _ => rw [writeStatus_eq]; rfl
  | trialCount _ free | stored _ _ _ free | refused _ free _ _ | accepted _ free _ _ | idle _ free =>
    cases hb.symm.trans free
  | completed next _ _ =>
    obtain rfl : ev = .engine := by simpa [EngineNext, withEvents] using next
    cases access
  | reset inp =>
    obtain ⟨rfl, _⟩ := List.cons.inj inp
    cases access

/-- A run of host accesses goes on and leaves the command in flight as it was. -/
theorem runEvents_accesses {s : State} {i : Instr} {es : List Event} (hb : s.busy = true) (hop : s.curOp = opcode i)
    (accesses : ∀ ev ∈ es, isAccess ev = true) : ∃ t, runEvents es s = .next t ∧ SameButHostSide s t := by
  induction es generalizing s with
  | nil => exact ⟨_, runEvents_nil s, rfl⟩
  | cons ev es ih =>
    obtain ⟨access, rest⟩ := List.forall_mem_cons.mp accesses
    obtain ⟨u, hstep⟩ := step_completes (s := withEvents [ev] s) fun _ => ⟨i, hop⟩
    have hsu := access_inFlight hb access hstep
    obtain ⟨hbu, hopu⟩ := hsu.flight
    obtain ⟨t, hrun, hut⟩ := ih (hbu.trans hb) (hopu.trans hop) rest
    exact ⟨t, (runEvents_cons hstep).trans hrun, hsu.trans hut⟩

/-- The run of one turn of the engine is the completion of the command in flight. -/
theorem runEvents_engine {s : State} {i : Instr} (hb : s.busy = true) (hop : s.curOp = opcode i) :
    runEvents [.engine] s = .next (finishCommand (effectOf i (beginStep .engine [] s))) := by
  have hi : instrOfOpcode s.curOp = some i := by rw [hop, instrOfOpcode_opcode]
  have hstep : step (withEvents [.engine] s) = .next (finishCommand (effectOf i (beginStep .engine [] s))) :=
    (step_engine_busy (s := withEvents [.engine] s) (.inr rfl) hb hi).trans (exec_inFlight ⟨rfl, hb, hop⟩)
  rw [runEvents_cons hstep, runEvents_nil, effectOf_frame]
  rfl

/-- Settles O32: the two completions start from states that differ in the host's side at most, which no effect reads. -/
theorem accessesInFlightDoNotChangeTheResult : Obligations.AccessesInFlightDoNotChangeTheResult := by
  intro s i es hb hop accesses
  obtain ⟨t, hrun, hst⟩ := runEvents_accesses hb hop accesses
  obtain ⟨hbt, hopt⟩ := hst.flight
  refine ⟨_, _, (runEvents_append hrun).trans (runEvents_engine (hbt.trans hb) (hopt.trans hop)),
    runEvents_engine hb hop, ?_⟩
  have hsame : beginStep .engine [] t = withHostSide (beginStep .engine [] t) (beginStep .engine [] s) := by
    rw [← hst]
    rfl
  rw [hsame, effectOf_withHostSide]
  exact ⟨rfl, rfl, rfl, rfl, rfl, rfl, rfl, rfl, rfl, rfl, rfl, rfl, rfl, rfl⟩

end Sys2Proof.Machine
end

section
/-! The Montgomery product for an odd modulus: the facts of 41_montgomery.md R150. -/

namespace Sys2Proof.Machine

section
variable {w n : Nat} (odd : n % 2 = 1)
include odd

/-- A residue whose product with the radix is a·b is the Montgomery product. -/
theorem montMul_eq_mod {a b c : Nat} (h : 2 ^ w * c ≡ a * b [MOD n]) : montMul w a b n = c % n :=
  (eq_montMul_of_radix_mul odd (Nat.mod_lt _ (Nat.pos_of_ne_zero (ne_zero_of_odd odd)))
    (((Nat.mod_modEq c n).mul_left _).trans h)).symm

/-- One factor in Montgomery form: the radix is used up, and the product is the plain one (R156, case 5). -/
theorem montMul_form_left (x b : Nat) : montMul w (x * 2 ^ w % n) b n = x * b % n := by
  refine montMul_eq_mod odd ?_
  calc 2 ^ w * (x * b) = x * 2 ^ w * b := by ring
    _ ≡ x * 2 ^ w % n * b [MOD n] := ((Nat.mod_modEq _ n).mul_right b).symm

/-- Both factors in Montgomery form: the product is the Montgomery form of the plain product (R150, fact 1). -/
theorem montMul_form_form (x y : Nat) :
    montMul w (x * 2 ^ w % n) (y * 2 ^ w % n) n = x * y * 2 ^ w % n := by
  rw [montMul_form_left odd, Nat.mul_mod_mod, mul_assoc]

/-- The factor R² mod n converts into Montgomery form (R150, fact 2). -/
theorem montMul_radix_sq (x : Nat) : montMul w x (2 ^ w * 2 ^ w % n) n = x * 2 ^ w % n := by
  rw [montMul_comm, montMul_form_left odd, mul_comm]

/-- The factor 1 converts out of Montgomery form (R150, fact 3). -/
theorem montMul_form_one (x : Nat) : montMul w (x * 2 ^ w % n) 1 n = x % n := by
  rw [montMul_form_left odd, mul_one]

/-- FROMMONT's product is the Montgomery product with 1 (R160). -/
theorem mul_rInv_mod (x : Nat) : x * rInv w n % n = montMul w x 1 n := by
  rw [montMul_eq odd, mul_one]

/-- Converting out of Montgomery form and back in reduces (R162, law 2). -/
theorem form_montMul_one (x : Nat) : montMul w x 1 n * 2 ^ w % n = x % n := by
  rw [mul_comm]
  exact (radix_mul_montMul odd w x 1).trans (by rw [mul_one])

theorem montMul_zero_left (b : Nat) : montMul w 0 b n = 0 := by
  simp [montMul_eq odd]

theorem montMul_zero_right (a : Nat) : montMul w a 0 n = 0 := by
  rw [montMul_comm, montMul_zero_left odd]

end

theorem montMul_modulus_one (w a b : Nat) : montMul w a b 1 = 0 :=
  Nat.lt_one_iff.mp (montMul_lt rfl w a b)

/-- Settles O22: the definition with `rInv` as the inverse, then one lemma for each of the facts. -/
theorem montgomeryProductFacts : Obligations.MontgomeryProductFacts := by
  intro w n odd
  refine ⟨fun a b => ⟨rInv w n, rInv_lt odd w, rInv_spec odd w, montMul_eq odd w a b⟩,
    montMul_form_form odd, montMul_radix_sq odd, montMul_form_one odd, fun a b => montMul_comm w a b n, ?_⟩
  rintro rfl
  exact montMul_modulus_one w

end Sys2Proof.Machine
end

section
/-! The bit-serial loop of 41_montgomery.md R151: its accumulator stays below 2·n and is, times 2^k, the product of the
bits scanned so far. -/

namespace Sys2Proof.Machine

/-- The bits below `k + 1` are the bits below `k` and bit `k`. -/
theorem mod_two_pow_succ_eq_bitOf (a k : Nat) : a % 2 ^ (k + 1) = a % 2 ^ k + 2 ^ k * bitOf a k := Nat.mod_pow_succ

theorem bitOf_le_one (a k : Nat) : bitOf a k ≤ 1 := Nat.le_of_lt_succ (Nat.mod_lt _ Nat.two_pos)

section
variable {a b n : Nat}

/-- The halving of an iteration is exact: n is added where the sum is odd, and n is odd. -/
theorem two_mul_serialStep (odd : n % 2 = 1) (acc i : Nat) :
    2 * serialStep a b n acc i ≡ acc + bitOf a i * b [MOD n] := by
  cases hpar : isOdd (acc + bitOf a i * b) with
  | true =>
    have hodd := (isOdd_iff _).mp hpar
    have heven : 2 * ((acc + bitOf a i * b + n) / 2) = acc + bitOf a i * b + n := by omega
    simp only [serialStep, hpar, if_true, heven]
    exact Nat.add_modEq_right
  | false =>
    have heven := (isOdd_eq_false_iff _).mp hpar
    simp only [serialStep, hpar, Bool.false_eq_true, if_false]
    rw [Nat.mul_div_cancel' (Nat.dvd_of_mod_eq_zero heven)]

/-- An iteration adds b and at most n to an accumulator below 2·n, below 4·n in all, before it halves the sum. -/
theorem serialStep_lt (hb : b < n) {acc : Nat} (hacc : acc < 2 * n) (i : Nat) : serialStep a b n acc i < 2 * n := by
  have hbit : bitOf a i * b ≤ b := by simpa using Nat.mul_le_mul_right b (bitOf_le_one a i)
  simp only [serialStep]
  split <;> omega

/-- The bound of R151: the accumulator is below 2·n after every iteration. -/
theorem serialAcc_lt (hb : b < n) (k : Nat) : serialAcc a b n k < 2 * n := by
  induction k with
  | zero => rw [serialAcc]; omega
  | succ k ih => exact serialStep_lt hb ih k

/-- After `k` iterations the accumulator times 2^k is the product of the low `k` bits of a with b. -/
theorem two_pow_mul_serialAcc (odd : n % 2 = 1) (k : Nat) :
    2 ^ k * serialAcc a b n k ≡ a % 2 ^ k * b [MOD n] := by
  induction k with
  | zero => simp [serialAcc, Nat.mod_one, Nat.ModEq.refl]
  | succ k ih =>
    calc 2 ^ (k + 1) * serialAcc a b n (k + 1) = 2 ^ k * (2 * serialStep a b n (serialAcc a b n k) k) := by
          rw [serialAcc, pow_succ, mul_assoc]
      _ ≡ 2 ^ k * (serialAcc a b n k + bitOf a k * b) [MOD n] := (two_mul_serialStep odd _ k).mul_left _
      _ = 2 ^ k * serialAcc a b n k + 2 ^ k * bitOf a k * b := by ring
      _ ≡ a % 2 ^ k * b + 2 ^ k * bitOf a k * b [MOD n] := ih.add_right _
      _ = a % 2 ^ (k + 1) * b := by rw [mod_two_pow_succ_eq_bitOf, add_mul]

/-- The last line of R151: one subtraction brings an accumulator below 2·n below n. -/
theorem serialMontMul_lt (hb : b < n) (w : Nat) : serialMontMul w a b n < n := by
  have hacc : serialAcc a b n w < 2 * n := serialAcc_lt hb w
  unfold serialMontMul
  split <;> omega

theorem serialMontMul_modEq (w : Nat) : serialMontMul w a b n ≡ serialAcc a b n w [MOD n] := by
  unfold serialMontMul
  split
  case isTrue hle => exact (Nat.add_modEq_right (n := n)).symm.trans (by rw [Nat.sub_add_cancel hle])
  case isFalse => rfl

/-- The loop computes the function that MONTMUL is defined by. -/
theorem serialMontMul_eq_montMul {w : Nat} (odd : n % 2 = 1) (ha : a < 2 ^ w) (hb : b < n) :
    serialMontMul w a b n = montMul w a b n := by
  refine eq_montMul_of_radix_mul odd (serialMontMul_lt hb w) ?_
  calc 2 ^ w * serialMontMul w a b n ≡ 2 ^ w * serialAcc a b n w [MOD n] := (serialMontMul_modEq w).mul_left _
    _ ≡ a % 2 ^ w * b [MOD n] := two_pow_mul_serialAcc odd w
    _ = a * b := by rw [Nat.mod_eq_of_lt ha]

end

/-- Settles O23: the bound is `serialAcc_lt`, the value `serialMontMul_eq_montMul`. -/
theorem serialMultiplierReturnsTheMontgomeryProduct : Obligations.SerialMultiplierReturnsTheMontgomeryProduct :=
  fun w _ _ _ odd ha hb =>
    ⟨fun k _ => serialAcc_lt hb k, serialMontMul_eq_montMul odd ha hb, serialMontMul_lt hb w⟩

end Sys2Proof.Machine
end

section
/-! SETUP, MONTMUL, TOMONT and FROMMONT: what each refuses, accepts and leaves at its completion (41_montgomery.md R152
to R160). -/

namespace Sys2Proof.Machine

/-! ## Residues in a register -/

section
variable {s : State}

/-- The smallest width is that of one word (00_scope.md R6). -/
theorem Sized.le_width (hs : Sized s) : 32 ≤ width s := by
  have hnw := hs.size.1
  unfold width
  omega

/-- A residue modulo N is an integer the registers can hold. -/
theorem Sized.lt_radix (hs : Sized s) {x : Nat} (hx : x < value s .n) : x < 2 ^ width s := hx.trans (hs.value_lt .n)

/-- A residue modulo N is read back as it was written: a result cannot overflow (R156, case 6). -/
theorem Sized.limbsValue_limbsOf (hs : Sized s) {x : Nat} (hx : x < value s .n) : limbsValue (limbsOf s.nw x) = x :=
  limbsValue_limbsOf_of_lt (hs.lt_radix hx)

theorem mod_value_n_lt (odd : value s .n % 2 = 1) (x : Nat) : x % value s .n < value s .n :=
  Nat.mod_lt _ (Nat.pos_of_ne_zero (ne_zero_of_odd odd))

/-! ## The effects for an odd N -/

theorem effectSetup_eq (odd : value s .n % 2 = 1) :
    effectSetup s = { s with rr := limbsOf s.nw (2 ^ (2 * width s) % value s .n), modvalid := true } := by
  rw [effectSetup, modN_eq (ne_zero_of_odd odd)]

theorem effectTomont_eq (odd : value s .n % 2 = 1) :
    effectTomont s = setRes (value s .a * 2 ^ width s % value s .n) s := by
  rw [effectTomont, modN_eq (ne_zero_of_odd odd)]

/-- FROMMONT is the Montgomery product with 1. -/
theorem effectFrommont_eq (odd : value s .n % 2 = 1) :
    effectFrommont s = setRes (montMul (width s) (value s .a) 1 (value s .n)) s := by
  rw [effectFrommont, modN_eq (ne_zero_of_odd odd), mul_rInv_mod odd]

/-! ## Refusal and completion (40_common.md R130, R134) -/

theorem exec_refused {i : Instr} {c : ErrCode} (ready : HostReady s) (cause : checkOf i s = some c) :
    exec i s = .next (raiseError c (opcode i) s) := by
  obtain ⟨host, hb, he⟩ := ready
  rw [exec_eq_runCommand, runCommand_host host, cause,
    writeCommand_refused ((cmdLocked_eq_false_iff s).mpr ⟨hb, he⟩)]

/-- The completion of a command whose whole effect is a result in RES. -/
theorem exec_result {i : Instr} {r : Nat} (flight : InFlight s i) (result : effectOf i s = setRes r s) :
    exec i s = .next (finishCommand (setRes r s)) := by
  rw [exec_inFlight flight, result]

end

/-! ## The four commands -/

/-- Settles O8: an even N fails SETUP's only check, and 2^(2W) mod N fits in RR. -/
theorem setupComputesRRAndValidatesTheModulus : Obligations.SetupComputesRRAndValidatesTheModulus := by
  refine fun s => ⟨fun ready even => exec_refused (i := .setup) ready (checkSetup_even even),
    fun ready odd => exec_accepted ready odd, fun flight odd => ⟨?_, fun hs => ?_⟩⟩
  · rw [exec_inFlight flight, effectOf, effectSetup_eq odd]
    rfl
  · exact hs.limbsValue_limbsOf (mod_value_n_lt odd _)

/-- Settles O9: the two checks in their order, and the Montgomery product with `rInv` as the inverse. -/
theorem montmulLeavesTheMontgomeryProduct : Obligations.MontmulLeavesTheMontgomeryProduct := by
  refine fun s => ⟨fun ready invalid => exec_refused (i := .montmul) ready (checkMontmul_invalid invalid),
    fun ready valid range => exec_refused (i := .montmul) ready (checkMontmul_range valid range),
    fun ready valid ha hb => exec_accepted ready ⟨valid, ha, hb⟩, fun flight odd => ?_⟩
  have hr : montMul (width s) (value s .a) (value s .b) (value s .n) < value s .n := montMul_lt odd _ _ _
  exact ⟨rInv (width s) (value s .n), _, rInv_lt odd _, rInv_spec odd _, montMul_eq odd _ _ _, hr,
    exec_result flight rfl, fun hs => hs.limbsValue_limbsOf hr⟩

/-- Settles O10: the only check is on MODVALID, and the Montgomery form fits in RES. -/
theorem tomontLeavesTheMontgomeryForm : Obligations.TomontLeavesTheMontgomeryForm := by
  refine fun s => ⟨fun ready invalid => exec_refused (i := .tomont) ready (setupCheck_invalid invalid),
    fun ready valid => exec_accepted ready valid, fun flight odd => ?_⟩
  have hr := mod_value_n_lt odd (value s .a * 2 ^ width s)
  exact ⟨exec_result flight (effectTomont_eq odd), hr, fun hs => hs.limbsValue_limbsOf hr⟩

/-- Settles O11: the only check is on MODVALID, and the result is the Montgomery product with 1. -/
theorem frommontLeavesThePlainForm : Obligations.FrommontLeavesThePlainForm := by
  refine fun s => ⟨fun ready invalid => exec_refused (i := .frommont) ready (setupCheck_invalid invalid),
    fun ready valid => exec_accepted ready valid, fun flight odd => ?_⟩
  have hr : montMul (width s) (value s .a) 1 (value s .n) < value s .n := montMul_lt odd _ _ _
  exact ⟨rInv (width s) (value s .n), _, rInv_lt odd _, rInv_spec odd _, (mul_rInv_mod odd _).symm, hr,
    exec_result flight (effectFrommont_eq odd), fun hs => hs.limbsValue_limbsOf hr⟩

/-! ## Corner cases (R153, R156) -/

/-- For N all ones R mod N is 1, and so is its square (R153, case 3). -/
theorem radix_sq_mod_all_ones {w : Nat} (hw : 2 ≤ w) : 2 ^ (2 * w) % (2 ^ w - 1) = 1 := by
  have hlarge : 2 ^ 2 ≤ 2 ^ w := Nat.pow_le_pow_right Nat.two_pos hw
  have hradix : 2 ^ w ≡ 1 [MOD 2 ^ w - 1] := Nat.modEq_sub (by omega)
  calc 2 ^ (2 * w) % (2 ^ w - 1) = (2 ^ w) ^ 2 % (2 ^ w - 1) := by rw [← pow_mul, mul_comm]
    _ = 1 ^ 2 % (2 ^ w - 1) := hradix.pow 2
    _ = 1 := Nat.mod_eq_of_lt (by omega)

/-- Settles O18: each case evaluates 2^(2W) mod N; a valid RR holds it already, by the invariant. -/
theorem setupCornerCases : Obligations.SetupCornerCases := by
  intro s flight hs odd
  have hrr : value (finishCommand (effectSetup s)) .rr = 2 ^ (2 * width s) % value s .n := by
    rw [effectSetup_eq odd]
    exact hs.limbsValue_limbsOf (mod_value_n_lt odd _)
  refine ⟨_, exec_inFlight flight, rfl, fun one => ?_, fun allOnes => ?_, fun inv valid => ?_⟩
  · rw [effectOf, hrr, one, Nat.mod_one]
  · have hw : 2 ≤ width s := le_trans (by decide) hs.le_width
    rw [effectOf, hrr, allOnes, radix_sq_mod_all_ones hw]
  · have hlen : (effectSetup s).rr.length = s.rr.length := by simpa using (hs.regs .rr).symm
    exact limbsValue_inj hlen (hrr.trans (inv.validOdd valid).2.symm)

/-- Settles O19: each case evaluates the Montgomery product. -/
theorem montmulCornerCases : Obligations.MontmulCornerCases := by
  intro s flight hs odd
  have hres : value (finishCommand (effectMontmul s)) .res =
      montMul (width s) (value s .a) (value s .b) (value s .n) := hs.limbsValue_limbsOf (montMul_lt odd _ _ _)
  refine ⟨_, exec_inFlight flight, fun zero => ?_, fun one => ?_, fun x form => ?_⟩
  · have hzero : value (finishCommand (effectMontmul s)) .res = 0 := by
      rw [hres]
      rcases zero with ha | hb
      · rw [ha, montMul_zero_left odd]
      · rw [hb, montMul_zero_right odd]
    exact ⟨hzero, by rw [effectOf, zeroFlag, hzero]; rfl⟩
  · rw [effectOf, hres, one, montMul_modulus_one]
  · rw [effectOf, hres, form, montMul_form_left odd]

end Sys2Proof.Machine
end

section
/-! The laws of 41_montgomery.md R162, each from what one completion leaves in RES. -/

namespace Sys2Proof.Machine

/-- The state `Leaves` completes a command in: `i` in flight on the operands a, b, e. -/
def completing (i : Instr) (s : State) (a b e : Nat) : State :=
  { s with
    turn := .engine, busy := true, curOp := opcode i
    a := limbsOf s.nw a, b := limbsOf s.nw b, e := limbsOf s.nw e }

theorem value_a_completing {i : Instr} {s : State} {a b e : Nat} (ha : a < 2 ^ width s) :
    value (completing i s a b e) .a = a := limbsValue_limbsOf_of_lt ha

theorem value_b_completing {i : Instr} {s : State} {a b e : Nat} (hb : b < 2 ^ width s) :
    value (completing i s a b e) .b = b := limbsValue_limbsOf_of_lt hb

theorem leaves_iff (i : Instr) (s : State) (a b e x : Nat) :
    Leaves i s a b e x ↔ value (effectOf i (completing i s a b e)) .res = x := by
  have hexec : exec i (completing i s a b e) = .next (finishCommand (effectOf i (completing i s a b e))) :=
    exec_inFlight ⟨rfl, rfl, rfl⟩
  constructor
  · rintro ⟨t, ht, rfl⟩
    obtain rfl := Host.Outcome.next.inj (hexec.symm.trans ht)
    rfl
  · exact fun hx => ⟨_, hexec, hx⟩

/-- A completion that writes a residue modulo N to RES leaves it there. -/
theorem leaves_of_setRes {i : Instr} {s : State} {a b e x : Nat} (hs : Sized s) (hx : x < value s .n)
    (result : effectOf i (completing i s a b e) = setRes x (completing i s a b e)) : Leaves i s a b e x := by
  rw [leaves_iff, result]
  exact hs.limbsValue_limbsOf hx

section
variable {s : State} (hs : Sized s) (odd : value s .n % 2 = 1)
include hs odd

theorem leaves_tomont {a : Nat} (ha : a < 2 ^ width s) :
    Leaves .tomont s a 0 0 (a * 2 ^ width s % value s .n) := by
  refine leaves_of_setRes hs (mod_value_n_lt odd _) ?_
  rw [effectOf, effectTomont_eq (s := completing _ s _ _ _) odd, value_a_completing ha]
  rfl

theorem leaves_frommont {a : Nat} (ha : a < 2 ^ width s) :
    Leaves .frommont s a 0 0 (montMul (width s) a 1 (value s .n)) := by
  refine leaves_of_setRes hs (montMul_lt odd _ _ _) ?_
  rw [effectOf, effectFrommont_eq (s := completing _ s _ _ _) odd, value_a_completing ha]
  rfl

theorem leaves_montmul {a b : Nat} (ha : a < 2 ^ width s) (hb : b < 2 ^ width s) :
    Leaves .montmul s a b 0 (montMul (width s) a b (value s .n)) := by
  refine leaves_of_setRes hs (montMul_lt odd _ _ _) ?_
  rw [effectOf, effectMontmul, value_a_completing ha, value_b_completing hb]
  rfl

/-- FROMMONT of a Montgomery form is the plain residue. -/
theorem leaves_frommont_form (x : Nat) :
    Leaves .frommont s (x * 2 ^ width s % value s .n) 0 0 (x % value s .n) := by
  have h := leaves_frommont hs odd (hs.lt_radix (mod_value_n_lt odd (x * 2 ^ width s)))
  rwa [montMul_form_one odd] at h

/-- MONTMUL of a Montgomery form with a plain residue is the plain product. -/
theorem leaves_montmul_form (x : Nat) {y : Nat} (hy : y < 2 ^ width s) :
    Leaves .montmul s (x * 2 ^ width s % value s .n) y 0 (x * y % value s .n) := by
  have h := leaves_montmul hs odd (hs.lt_radix (mod_value_n_lt odd (x * 2 ^ width s))) hy
  rwa [montMul_form_left odd] at h

end

/-- Settles O25: one law after the other, each a fact of R150 about what the completions leave. -/
theorem montgomeryCommandLaws : Obligations.MontgomeryCommandLaws := by
  intro s hs odd x y hx hy
  have residue (z : Nat) : z % value s .n < 2 ^ width s := hs.lt_radix (mod_value_n_lt odd z)
  refine ⟨⟨_, leaves_tomont hs odd hx, leaves_frommont_form hs odd x⟩, ?back, fun _ _ => ?product,
    fun _ _ => ⟨_, leaves_tomont hs odd hx, leaves_montmul_form hs odd x hy⟩,
    ⟨_, leaves_montmul hs odd hx hy, ?comm⟩, ⟨?one, fun hxn => ?unit⟩, fun valid inv => ?rr⟩
  case back =>
    refine ⟨_, leaves_frommont hs odd hx, ?_⟩
    have h := leaves_tomont hs odd (hs.lt_radix (montMul_lt odd (width s) x 1))
    rwa [form_montMul_one odd] at h
  case product =>
    refine ⟨_, _, x * y * 2 ^ width s % value s .n, leaves_tomont hs odd hx, leaves_tomont hs odd hy, ?_,
      leaves_frommont_form hs odd (x * y)⟩
    have h := leaves_montmul_form hs odd x (residue (y * 2 ^ width s))
    rwa [Nat.mul_mod_mod, ← mul_assoc] at h
  case comm =>
    rw [montMul_comm]
    exact leaves_montmul hs odd hy hx
  case one =>
    have hw : width s ≠ 0 := Nat.ne_of_gt (lt_of_lt_of_le (by decide) hs.le_width)
    have h := leaves_tomont hs odd (Nat.one_lt_two_pow hw)
    rwa [one_mul] at h
  case unit =>
    have h := leaves_montmul_form hs odd 1 hx
    rwa [one_mul, one_mul, Nat.mod_eq_of_lt hxn] at h
  case rr =>
    have h := leaves_tomont hs odd (residue (2 ^ width s))
    rwa [Nat.mod_mul_mod, ← pow_add, ← two_mul, ← (inv.validOdd valid).2] at h

end Sys2Proof.Machine
end

section
/-! Square and multiply over the bit-serial multiplier (42_modexp.md R181): the accumulator is the Montgomery form of the
power by the exponent's bits scanned so far. -/

namespace Sys2Proof.Machine

/-- The bits from `k` up are the bits from `k + 1` up, then bit `k`. -/
theorem div_two_pow_eq_bitOf (e k : Nat) : e / 2 ^ k = 2 * (e / 2 ^ (k + 1)) + bitOf e k := by
  rw [bitOf, pow_succ, ← Nat.div_div_eq_div_mul, Nat.div_add_mod]

/-- A multiplier without a one adds nothing in any iteration. -/
theorem serialAcc_zero_left (b n k : Nat) : serialAcc 0 b n k = 0 := by
  induction k with
  | zero => rfl
  | succ k ih => simp [serialAcc, ih, serialStep, bitOf, isOdd]

theorem serialMontMul_zero_left {n : Nat} (pos : 0 < n) (w b : Nat) : serialMontMul w 0 b n = 0 := by
  rw [serialMontMul, serialAcc_zero_left, if_neg (Nat.not_le.mpr pos)]

section
variable {w n : Nat} (odd : n % 2 = 1) (hn : n < 2 ^ w)
include odd

theorem mod_lt_of_odd (x : Nat) : x % n < n := Nat.mod_lt _ (Nat.pos_of_ne_zero (ne_zero_of_odd odd))

/-- The conversion into Montgomery form by the factor RR. -/
theorem serialMontMul_radix_sq {x : Nat} (hx : x < 2 ^ w) :
    serialMontMul w x (2 ^ (2 * w) % n) n = x * 2 ^ w % n := by
  rw [serialMontMul_eq_montMul odd hx (mod_lt_of_odd odd _), two_mul, pow_add, montMul_radix_sq odd]

include hn

/-- A product of two Montgomery forms. -/
theorem serialMontMul_form_form (x y : Nat) :
    serialMontMul w (x * 2 ^ w % n) (y * 2 ^ w % n) n = x * y * 2 ^ w % n := by
  rw [serialMontMul_eq_montMul odd ((mod_lt_of_odd odd _).trans hn) (mod_lt_of_odd odd _), montMul_form_form odd]

/-- The conversion out of Montgomery form. The bound of R151 needs 1 < n; modulo 1 the only form is 0. -/
theorem serialMontMul_form_one (x : Nat) : serialMontMul w (x * 2 ^ w % n) 1 n = x % n := by
  have pos := Nat.pos_of_ne_zero (ne_zero_of_odd odd)
  rcases Nat.eq_or_lt_of_le pos with rfl | one_lt
  · rw [Nat.mod_one, Nat.mod_one, serialMontMul_zero_left pos]
  · rw [serialMontMul_eq_montMul odd ((mod_lt_of_odd odd _).trans hn) one_lt, montMul_form_one odd]

/-- An iteration squares, and multiplies by a where the bit scanned is one: the exponent so far takes in that bit. -/
theorem ladderStep_form (a e k : Nat) :
    ladderStep w n (a * 2 ^ w % n) e (a ^ (e / 2 ^ (k + 1)) * 2 ^ w % n) k = a ^ (e / 2 ^ k) * 2 ^ w % n := by
  rw [ladderStep, serialMontMul_form_form odd hn, ← pow_add, ← two_mul, div_two_pow_eq_bitOf e k]
  rcases Nat.le_one_iff_eq_zero_or_eq_one.mp (bitOf_le_one e k) with bit | bit
  · rw [bit, if_neg Nat.zero_ne_one, add_zero]
  · rw [bit, if_pos rfl, serialMontMul_form_form odd hn, ← pow_succ]

/-- The loop over the low `k` bits completes the power. -/
theorem ladder_form (a e k : Nat) :
    ladder w n (a * 2 ^ w % n) e k (a ^ (e / 2 ^ k) * 2 ^ w % n) = a ^ e * 2 ^ w % n := by
  induction k with
  | zero => rw [ladder, pow_zero, Nat.div_one]
  | succ k ih => rw [ladder, ladderStep_form odd hn, ih]

/-- The whole of R181: into Montgomery form, the loop from a^0 = 1 on, and out again. -/
theorem ladderModExp_eq {a e : Nat} (ha : a < 2 ^ w) (he : e < 2 ^ w) : ladderModExp w a e n = a ^ e % n := by
  have one_lt : 1 < 2 ^ w := lt_of_le_of_lt (Nat.pos_of_ne_zero (ne_zero_of_odd odd)) hn
  have hloop := ladder_form odd hn a e w
  rw [Nat.div_eq_of_lt he, pow_zero] at hloop
  rw [ladderModExp, serialMontMul_radix_sq odd ha, serialMontMul_radix_sq odd one_lt, hloop,
    serialMontMul_form_one odd hn]

end

/-- Settles O24: the loop's value is `ladderModExp_eq`, and MODEXP's function is the same power. -/
theorem ladderReturnsThePower : Obligations.LadderReturnsThePower := by
  intro w a e n odd hn ha he
  have hladder := ladderModExp_eq odd hn ha he
  exact ⟨hladder, hladder.trans (modExp_eq (ne_zero_of_odd odd) a e).symm⟩

end Sys2Proof.Machine
end

section
/-! MODEXP: what it refuses, accepts and leaves, and the corner cases and laws of its result (42_modexp.md R182 to
R185). -/

namespace Sys2Proof.Machine

/-! ## Powers modulo n -/

/-- n − 1 is −1 modulo n: its square is 1. -/
theorem pred_sq_modEq {n : Nat} (one_lt : 1 < n) : (n - 1) ^ 2 ≡ 1 [MOD n] := by
  have hsq : (n - 1) ^ 2 = 1 + n * (n - 2) := by
    obtain ⟨k, rfl⟩ := Nat.exists_eq_add_of_lt one_lt
    rw [show 1 + k + 1 - 1 = k + 1 by omega, show 1 + k + 1 - 2 = k by omega]
    ring
  rw [hsq]
  exact Nat.add_modEq_left_iff.mpr (Nat.dvd_mul_right n (n - 2))

/-- Every power of n − 1 is 1 or n − 1 by the parity of the exponent (R183, case 7). -/
theorem pred_pow_mod {n : Nat} (one_lt : 1 < n) (e : Nat) : (n - 1) ^ e % n = if e % 2 = 0 then 1 else n - 1 := by
  have hpar : (n - 1) ^ e ≡ (n - 1) ^ (e % 2) [MOD n] :=
    calc (n - 1) ^ e = ((n - 1) ^ 2) ^ (e / 2) * (n - 1) ^ (e % 2) := by rw [← pow_mul, ← pow_add, Nat.div_add_mod]
      _ ≡ 1 ^ (e / 2) * (n - 1) ^ (e % 2) [MOD n] := ((pred_sq_modEq one_lt).pow _).mul_right _
      _ = (n - 1) ^ (e % 2) := by rw [one_pow, one_mul]
  rw [hpar]
  rcases Nat.mod_two_eq_zero_or_one e with even | odd
  · rw [even, pow_zero, Nat.mod_eq_of_lt one_lt, if_pos rfl]
  · rw [odd, pow_one, Nat.mod_eq_of_lt (by omega), if_neg Nat.one_ne_zero]

/-- Euler's theorem for a pair of exponents that are inverse modulo the totient (R184). -/
theorem pow_mul_modEq_self {n e d m : Nat} (inverse : e * d % Nat.totient n = 1) (coprime : Nat.Coprime m n) :
    m ^ (e * d) ≡ m [MOD n] := by
  have hexp : e * d = Nat.totient n * (e * d / Nat.totient n) + 1 := by
    conv_lhs => rw [← Nat.div_add_mod (e * d) (Nat.totient n), inverse]
  calc m ^ (e * d) = (m ^ Nat.totient n) ^ (e * d / Nat.totient n) * m := by
        rw [← pow_mul, ← pow_succ, ← hexp]
    _ ≡ 1 ^ (e * d / Nat.totient n) * m [MOD n] := ((Nat.ModEq.pow_totient coprime).pow _).mul_right m
    _ = m := by rw [one_pow, one_mul]

/-! ## The command (R182) -/

theorem effectModexp_eq {s : State} (hn : value s .n ≠ 0) :
    effectModexp s = setRes (value s .a ^ value s .e % value s .n) s := by
  rw [effectModexp, modExp_eq hn]

/-- What a completion with an odd N leaves in RES. -/
theorem value_res_effectModexp {s : State} (hs : Sized s) (odd : value s .n % 2 = 1) :
    value (effectModexp s) .res = value s .a ^ value s .e % value s .n := by
  rw [effectModexp_eq (ne_zero_of_odd odd)]
  exact hs.limbsValue_limbsOf (mod_value_n_lt odd _)

/-- MODVALID = 1 wherever MODEXP is in flight, so an even modulus cannot reach its completion. -/
theorem BlockInv.odd_of_modexp_inFlight {s : State} (h : BlockInv s) (hb : s.busy = true)
    (hop : s.curOp = opcode .modexp) : value s .n % 2 = 1 := (h.validOdd (h.admitted hb hop)).1

/-- Settles O12: the only check is on MODVALID, the power modulo N fits in RES, and N is odd by the invariant. -/
theorem modexpLeavesThePower : Obligations.ModexpLeavesThePower := by
  refine fun s => ⟨fun ready invalid => exec_refused (i := .modexp) ready (setupCheck_invalid invalid),
    fun ready valid => exec_accepted ready valid, fun flight hn => ?_,
    fun reachable hb hop => reachable.blockInv.odd_of_modexp_inFlight hb hop⟩
  have hr : value s .a ^ value s .e % value s .n < value s .n := Nat.mod_lt _ (Nat.pos_of_ne_zero hn)
  exact ⟨exec_result flight (effectModexp_eq hn), hr, fun hs => hs.limbsValue_limbsOf hr⟩

/-! ## Corner cases (R183) -/

/-- Settles O20: each case evaluates A^E mod N. -/
theorem modexpCornerCases : Obligations.ModexpCornerCases := by
  intro s flight hs odd
  refine ⟨_, exec_inFlight flight, ?_⟩
  rw [effectOf, value_finishCommand, value_res_effectModexp hs odd]
  refine ⟨fun he => ?_, fun ha he => ?_, fun ha => ?_, fun he => ?_, Nat.pow_mod _ _ _, fun hn => ?_,
    fun ha one_lt => ?_, fun he => ?_, mod_value_n_lt odd _⟩
  · rw [he, pow_zero]
  · rw [ha, zero_pow (Nat.ne_of_gt he), Nat.zero_mod]
  · rw [ha, one_pow]
  · rw [he, pow_one]
  · rw [hn, Nat.mod_one]
  · rw [ha, pred_pow_mod one_lt]
  · rw [he]

/-! ## Laws (R184, R185) -/

theorem value_e_completing {i : Instr} {s : State} {a b e : Nat} (he : e < 2 ^ width s) :
    value (completing i s a b e) .e = e := limbsValue_limbsOf_of_lt he

section
variable {s : State} (hs : Sized s) (odd : value s .n % 2 = 1)
include hs odd

theorem leaves_modexp {a e : Nat} (ha : a < 2 ^ width s) (he : e < 2 ^ width s) :
    Leaves .modexp s a 0 e (a ^ e % value s .n) := by
  refine leaves_of_setRes hs (mod_value_n_lt odd _) ?_
  rw [effectOf, effectModexp_eq (s := completing _ s _ _ _) (ne_zero_of_odd odd), value_a_completing ha,
    value_e_completing he]
  rfl

/-- MODEXP of a residue that is itself a power: the exponents multiply. -/
theorem leaves_modexp_pow (a e1 : Nat) {e2 : Nat} (he : e2 < 2 ^ width s) :
    Leaves .modexp s (a ^ e1 % value s .n) 0 e2 (a ^ (e1 * e2) % value s .n) := by
  have h := leaves_modexp hs odd (hs.lt_radix (mod_value_n_lt odd (a ^ e1))) he
  rwa [← Nat.pow_mod, ← pow_mul] at h

end

/-- Settles O26: the first three laws are laws of powers modulo N; MODEXP's effect reads nothing that the fourth varies. -/
theorem modexpLaws : Obligations.ModexpLaws := by
  intro s hs odd a e1 e2 ha
  refine ⟨fun he1 => ⟨_, leaves_modexp hs odd ha he1, ?reduce⟩,
    fun hsum => ⟨_, _, leaves_modexp hs odd ha (by omega), leaves_modexp hs odd ha (by omega), ?add⟩,
    fun he1 he2 hmul => ⟨_, _, leaves_modexp hs odd ha he1, leaves_modexp_pow hs odd a e1 he2,
      leaves_modexp hs odd ha hmul⟩,
    fun he1 b res k c p q => ⟨_, leaves_modexp hs odd ha he1, ?independent⟩⟩
  case reduce =>
    have h := leaves_modexp_pow hs odd a 1 he1
    rwa [pow_one, one_mul] at h
  case add =>
    rw [← Nat.mul_mod, ← pow_add]
    exact leaves_modexp hs odd ha hsum
  case independent =>
    have h := leaves_modexp hs odd ha he1
    rw [leaves_iff] at h ⊢
    exact h

/-- Settles O27: c is m^e mod N, and m^(e·d) is m modulo N by Euler's theorem. -/
theorem modexpRoundTrip : Obligations.ModexpRoundTrip := by
  intro s hs odd e d m he hd inverse hm coprime
  refine ⟨_, leaves_modexp hs odd (hs.lt_radix hm) he, ?_⟩
  have h := leaves_modexp_pow hs odd m e hd
  rwa [pow_mul_modEq_self inverse coprime, Nat.mod_eq_of_lt hm] at h

end Sys2Proof.Machine
end

section
/-! A command from its CMD write to its completion, and the run that encrypts one character (42_modexp.md R186). -/

namespace Sys2Proof.Machine

/-- The write of an admitted command's value to a free CMD and one turn of the engine are the whole life of the command
(40_common.md R132, R134). -/
theorem runEvents_command {s : State} {i : Instr} (hb : s.busy = false) (he : s.err = false) (adm : Admitted s i) :
    runEvents [cmdEvent i, .engine] s =
      .next (finishCommand (effectOf i (acceptCommand (opcode i) (beginStep .engine [] s)))) := by
  have haccept : step (withEvents [cmdEvent i] s) = .next (acceptCommand (opcode i) (beginStep .host [] s)) := by
    have adm' : Admitted (withEvents [cmdEvent i] s) i := by
      rwa [← checkOf_eq_none_iff, checkOf_withEvents, checkOf_eq_none_iff]
    exact step_write_cmd_accepted (s := withEvents [cmdEvent i] s) rfl ((cmdLocked_eq_false_iff s).mpr ⟨hb, he⟩) adm'
  rw [runEvents_cons haccept, runEvents_engine rfl rfl]
  rfl

theorem Sized.runEvents {s t : State} (hs : Sized s) {es : List Event} (run : runEvents es s = .next t) : Sized t :=
  runEvents_induct (fun _ _ h => ⟨h.size, h.regs⟩) (fun _ _ => Sized.step) hs run

/-- The state after `LOAD A, m` and `LOAD E, e`. -/
def withBaseAndExponent (m e : Nat) (s : State) : State :=
  { beginStep .host [] s with a := limbsOf s.nw m, e := limbsOf s.nw e }

theorem runEvents_loadBaseAndExponent {s : State} (hs : Sized s) (hb : s.busy = false) (m e : Nat) :
    runEvents (loadEvents s.nw .a m ++ loadEvents s.nw .e e) s = .next (withBaseAndExponent m e s) := by
  have hloadA := runEvents_loadEvents (r := .a) rfl hs hb m
  exact (runEvents_append hloadA).trans (runEvents_loadEvents (r := .e) rfl (hs.runEvents hloadA) hb e)

/-- Settles O30: the two LOADs leave MODVALID and N alone, so MODEXP is accepted and raises the loaded base to the loaded
exponent modulo N. -/
theorem encryptSequenceComputesThePower : Obligations.EncryptSequenceComputesThePower := by
  intro s m e inv hb herr valid hm he
  have odd := (inv.validOdd valid).1
  have hload := runEvents_loadBaseAndExponent inv.sized hb m e
  have hcmd := runEvents_command (s := withBaseAndExponent m e s) (i := .modexp) hb herr valid
  have base : value (withBaseAndExponent m e s) .a = m := limbsValue_limbsOf_of_lt hm
  have exponent : value (withBaseAndExponent m e s) .e = e := limbsValue_limbsOf_of_lt he
  refine ⟨_, (runEvents_append hload).trans hcmd, ?_, rfl, rfl, herr, rfl, rfl, valid, exponent⟩
  have sized : Sized (withBaseAndExponent m e s) := inv.sized.runEvents hload
  have hres := value_res_effectModexp
    (s := acceptCommand (opcode .modexp) (beginStep .engine [] (withBaseAndExponent m e s)))
    ⟨sized.size, by simpa using sized.regs⟩ odd
  simp only [value_acceptCommand, value_beginStep, base, exponent] at hres
  rw [effectOf, value_finishCommand, hres]
  rfl

end Sys2Proof.Machine
end

section
/-! FERMAT and FTINIT: the verdict on a small N, one trial with its pass or witness, and FTINIT (43_fermat.md R204 to
R208, R210). -/

namespace Sys2Proof.Machine

/-- The trial of base `a` on the modulus `n` passes (43_fermat.md R206). -/
abbrev PassesTrial (n a : Nat) : Prop := a ^ (n - 1) % n = 1

/-! ## Trials as facts about integers -/

/-- Fermat's little theorem (R210). -/
theorem passesTrial_of_prime {n a : Nat} (prime : n.Prime) (pos : 1 ≤ a) (lt : a < n) : PassesTrial n a := by
  have coprime : a.Coprime n := (Nat.coprime_of_lt_prime (by omega) lt prime).symm
  have h : a ^ (n - 1) % n = 1 % n := Nat.ModEq.pow_card_sub_one_eq_one prime coprime
  rwa [Nat.mod_eq_of_lt prime.one_lt] at h

/-- A base that shares a factor with the modulus is a witness: its powers share that factor (R207, case 6). -/
theorem PassesTrial.coprime {n a : Nat} (one_lt : 1 < n) (pass : PassesTrial n a) : a.Coprime n := by
  have h : (a ^ (n - 1)).Coprime n := by
    rw [Nat.coprime_iff_gcd_eq_one, Nat.gcd_comm, Nat.gcd_rec, pass, Nat.gcd_one_left]
  exact (Nat.coprime_pow_left_iff (by omega) a n).mp h

theorem passesTrial_one {n : Nat} (one_lt : 1 < n) : PassesTrial n 1 := by
  rw [PassesTrial, one_pow, Nat.mod_eq_of_lt one_lt]

theorem passesTrial_pred {n : Nat} (one_lt : 1 < n) (odd : n % 2 = 1) : PassesTrial n (n - 1) := by
  rw [PassesTrial, pred_pow_mod one_lt, if_pos (by omega)]

/-- Modulo a prime p whose p − 1 divides the exponent a co-prime base has the power 1. -/
theorem pow_modEq_one_of_dvd {p a e : Nat} (prime : p.Prime) (coprime : a.Coprime p) (dvd : p - 1 ∣ e) :
    a ^ e ≡ 1 [MOD p] := by
  obtain ⟨k, rfl⟩ := dvd
  rw [pow_mul]
  simpa using (Nat.ModEq.pow_card_sub_one_eq_one prime coprime).pow k

/-- 561 = 3·11·17, and 2, 10 and 16 all divide 560 (R210). -/
theorem passesTrial_561 {a : Nat} (coprime : a.Coprime 561) : PassesTrial 561 a := by
  have modPrime (p : Nat) (prime : p.Prime) (factor : p ∣ 561) (dvd : p - 1 ∣ 561 - 1) : a ^ (561 - 1) ≡ 1 [MOD p] :=
    pow_modEq_one_of_dvd prime (coprime.coprime_dvd_right factor) dvd
  have h3 := modPrime 3 (by norm_num) (by norm_num) (by norm_num)
  have h11 := modPrime 11 (by norm_num) (by norm_num) (by norm_num)
  have h17 := modPrime 17 (by norm_num) (by norm_num) (by norm_num)
  have h33 := (Nat.modEq_and_modEq_iff_modEq_mul (by norm_num)).mp ⟨h3, h11⟩
  exact (Nat.modEq_and_modEq_iff_modEq_mul (m := 3 * 11) (by norm_num)).mp ⟨h33, h17⟩

/-! ## The effect on each range of N (R205, R206) -/

section
variable {s : State}

theorem effectFermat_of_le_one (hn : value s .n ≤ 1) : effectFermat s = foundComposite s := if_pos hn

theorem effectFermat_of_two_or_three (hn : value s .n = 2 ∨ value s .n = 3) : effectFermat s = foundSmallPrime s := by
  rw [effectFermat, if_neg (by omega), if_pos (by omega)]

section
variable (large : 4 ≤ value s .n)
include large

theorem effectFermat_of_large : effectFermat s = fermatTrial s := by
  rw [effectFermat, if_neg (by omega), if_neg (by omega)]

theorem effectFermat_of_pass (pass : PassesTrial (value s .n) (value s .a)) :
    effectFermat s = trialPassed (setRes 1 s) := by
  rw [effectFermat_of_large large, fermatTrial, modExp_eq (by omega), pass]
  rfl

theorem effectFermat_of_witness (witness : ¬PassesTrial (value s .n) (value s .a)) :
    effectFermat s = foundComposite (setRes (value s .a ^ (value s .n - 1) % value s .n) s) := by
  rw [effectFermat_of_large large, fermatTrial, modExp_eq (by omega)]
  exact if_neg witness

/-! ## The Fermat state after a trial -/

theorem effectFermat_ftPass : (effectFermat s).ftPass = decide (PassesTrial (value s .n) (value s .a)) := by
  by_cases pass : PassesTrial (value s .n) (value s .a)
  · rw [effectFermat_of_pass large pass, decide_eq_true pass]
    simp
  · rw [effectFermat_of_witness large pass, decide_eq_false pass]
    simp

theorem effectFermat_ftComposite :
    (effectFermat s).ftComposite = (s.ftComposite || !decide (PassesTrial (value s .n) (value s .a))) := by
  by_cases pass : PassesTrial (value s .n) (value s .a)
  · rw [effectFermat_of_pass large pass, decide_eq_true pass]
    simp
  · rw [effectFermat_of_witness large pass, decide_eq_false pass]
    simp

theorem effectFermat_ftPrime :
    (effectFermat s).ftPrime = (decide (PassesTrial (value s .n) (value s .a)) &&
      (s.ftPrime || (!s.ftComposite && decide (s.ftK.toNat ≤ (satSucc s.ftCount).toNat)))) := by
  by_cases pass : PassesTrial (value s .n) (value s .a)
  · rw [effectFermat_of_pass large pass, decide_eq_true pass]
    rfl
  · rw [effectFermat_of_witness large pass, decide_eq_false pass]
    rfl

theorem effectFermat_ftCount :
    (effectFermat s).ftCount = if PassesTrial (value s .n) (value s .a) then satSucc s.ftCount else s.ftCount := by
  by_cases pass : PassesTrial (value s .n) (value s .a)
  · rw [effectFermat_of_pass large pass, if_pos pass]
    rfl
  · rw [effectFermat_of_witness large pass, if_neg pass]
    rfl

end

end

/-- The passing branch with the saturated count written out (R206). -/
theorem trialPassed_eq (s : State) : trialPassed s = { s with
    ftPass := true
    ftCount := BitVec.ofNat 32 (min (s.ftCount.toNat + 1) (2 ^ 32 - 1))
    ftPrime := s.ftPrime ||
      (!s.ftComposite && decide (s.ftK.toNat ≤ min (s.ftCount.toNat + 1) (2 ^ 32 - 1))) } := by
  rw [trialPassed, satSucc_toNat, satSucc]

/-! ## FTINIT (R208) -/

/-- Settles O15: FTINIT has no check, and its effect is the clearing of the four items. -/
theorem ftinitClearsTheFermatState : Obligations.FtinitClearsTheFermatState :=
  fun _ => ⟨fun ready => exec_accepted ready trivial, exec_inFlight⟩

/-! ## FERMAT (R205 to R207, R210) -/

/-- Settles O13: N ≤ 3 passes the check as it is, and FT_COMPOSITE = 0 for N = 2 or 3 is a part of the invariant. -/
theorem fermatSmallModulusVerdict : Obligations.FermatSmallModulusVerdict := by
  refine fun s => ⟨fun ready small => exec_accepted ready (.inl small), fun flight hn => ?_, fun flight hn => ?_,
    fun reachable => reachable.blockInv.smallPrimeClean⟩
  · rw [exec_inFlight flight, effectOf, effectFermat_of_le_one hn]
    rfl
  · rw [exec_inFlight flight, effectOf, effectFermat_of_two_or_three hn]
    rfl

/-- Settles O14: the two branches on A^(N−1) mod N. -/
theorem fermatTrialTestsThePower : Obligations.FermatTrialTestsThePower := by
  refine fun s flight large => ⟨fun pass => ?_, fun witness => ?_⟩
  · rw [exec_inFlight flight, effectOf, effectFermat_of_pass large pass, trialPassed_eq]
    rfl
  · rw [exec_inFlight flight, effectOf, effectFermat_of_witness large witness]
    rfl

theorem satSucc_max : satSucc 0xFFFFFFFF#32 = 0xFFFFFFFF#32 := by decide

/-- Settles O21: each case is about which bases pass, or about the Fermat state before the trial. -/
theorem fermatTrialCornerCases : Obligations.FermatTrialCornerCases := by
  intro s flight _ hn odd
  have large : 4 ≤ value s .n := by omega
  have one_lt : 1 < value s .n := by omega
  refine ⟨_, exec_inFlight flight, ?_⟩
  simp only [effectOf, finishCommand_ftPass, finishCommand_ftComposite, finishCommand_ftPrime, finishCommand_ftCount,
    effectFermat_ftPass large, effectFermat_ftComposite large, effectFermat_ftPrime large, effectFermat_ftCount large]
  refine ⟨fun ha => ?one, fun ha => ?pred, fun shared => ?shared, fun full => ?full, fun prime => ?prime,
    fun composite notPrime => ?composite⟩
  case one => simpa [ha] using passesTrial_one one_lt
  case pred => simpa [ha] using passesTrial_pred one_lt odd
  case shared =>
    have witness : ¬PassesTrial (value s .n) (value s .a) := fun pass => shared (pass.coprime one_lt)
    simp [witness]
  case full => rw [full, satSucc_max, ite_self]
  case prime => simp [prime]
  case composite => simp [composite, notPrime]

/-- Settles O28: a prime passes every trial, and 561 passes every trial with a co-prime base. -/
theorem fermatVerdictIsExactOnlyForComposite : Obligations.FermatVerdictIsExactOnlyForComposite := by
  intro s flight hn pos lt
  have large : 4 ≤ value s .n := by omega
  refine ⟨_, exec_inFlight flight, ?_⟩
  simp only [effectOf, finishCommand_ftPass, finishCommand_ftComposite, effectFermat_ftPass large,
    effectFermat_ftComposite large]
  refine ⟨fun prime => ?prime, fun fails => ?witness, fun carmichael coprime => ?carmichael⟩
  case prime =>
    rw [decide_eq_true (passesTrial_of_prime prime pos lt)]
    simp
  case witness =>
    have witness : ¬PassesTrial (value s .n) (value s .a) := of_decide_eq_false fails
    exact ⟨by simp [witness], fun prime => witness (passesTrial_of_prime prime pos lt)⟩
  case carmichael => exact decide_eq_true (carmichael ▸ passesTrial_561 coprime)

end Sys2Proof.Machine
end

section
/-! Runs of trials on a loaded modulus, and their agreement with the document's primality test (43_fermat.md R209,
R211). -/

namespace Sys2Proof.Machine

/-- The write of a command's value to a free CMD where a check of the command fails (40_common.md R130). -/
theorem runEvents_refused {s : State} {i : Instr} {c : ErrCode} (hb : s.busy = false) (he : s.err = false)
    (cause : checkOf i s = some c) :
    runEvents [cmdEvent i] s = .next (raiseError c (opcode i) (beginStep .host [] s)) := by
  have hstep : step (withEvents [cmdEvent i] s) = .next (raiseError c (opcode i) (beginStep .host [] s)) :=
    step_write_cmd_refused (s := withEvents [cmdEvent i] s) rfl ((cmdLocked_eq_false_iff s).mpr ⟨hb, he⟩)
      ((checkOf_withEvents i _ s).trans cause)
  rw [runEvents_cons hstep, runEvents_nil]
  rfl

/-! ## LOAD of an operand and a command on it (30_encoding.md R109) -/

/-- The state after `LOAD r, v`. -/
def afterLoad (r : BigName) (v : Nat) (s : State) : State := storeWords r (limbsOf s.nw v) (beginStep .host [] s)

/-- What the completion of `i` finds where the command is accepted in state `s`. -/
def acceptedAt (i : Instr) (s : State) : State := acceptCommand (opcode i) (beginStep .engine [] s)

@[simp] theorem value_acceptedAt (i : Instr) (s : State) (r : BigName) : value (acceptedAt i s) r = value s r := by
  simp [acceptedAt]

section
variable {r : BigName} (hr : isOperand r = true) {s : State} {v : Nat}
include hr

theorem value_afterLoad (hv : v < 2 ^ width s) : value (afterLoad r v s) r = v := value_storeWords_limbsOf hr hv _

theorem afterLoad_noError (he : s.err = false) : (afterLoad r v s).err = false := by
  obtain rfl | rfl | rfl | rfl := (isOperand_iff r).mp hr <;> exact he

/-- LOAD, then a command that its operands admit, up to the completion. -/
theorem runEvents_load_command (hs : Sized s) (hb : s.busy = false) (he : s.err = false) {i : Instr}
    (adm : Admitted (afterLoad r v s) i) :
    runEvents (loadEvents s.nw r v ++ [cmdEvent i, .engine]) s =
      .next (finishCommand (effectOf i (acceptedAt i (afterLoad r v s)))) :=
  (runEvents_append (runEvents_loadEvents hr hs hb v)).trans
    (runEvents_command ((storeWords_busy r _ _).trans hb) (afterLoad_noError hr he) adm)

end

/-! ## A run of trials -/

/-- The state of an instance of `nw` words after SETUP of the modulus `n` and one trial for each base of `done`, where
FT_K = `k`. -/
structure TrialsRun (nw n k : Nat) (done : List Nat) (s : State) : Prop where
  sized : Sized s
  idle : s.busy = false
  noError : s.err = false
  valid : s.modvalid = true
  size : s.nw = nw
  modulus : value s .n = n
  trialCount : s.ftK.toNat = k
  composite : s.ftComposite = true ↔ ∃ a ∈ done, ¬PassesTrial n a
  prime : s.ftPrime = true ↔ done ≠ [] ∧ k ≤ done.length ∧ ∀ a ∈ done, PassesTrial n a
  count : s.ftCount.toNat = (done.filter fun a => PassesTrial n a).length

section
variable {s : State} {nw n k : Nat} {done : List Nat}

/-- SETUP of a loaded odd modulus starts a run of trials with none done. -/
theorem TrialsRun.ofSetup (hs : Sized s) (hb : s.busy = false) (he : s.err = false) (hn : n < 2 ^ width s)
    (odd : n % 2 = 1) :
    ∃ t, runEvents (loadEvents s.nw .n n ++ [cmdEvent .setup, .engine]) s = .next t ∧
      TrialsRun s.nw n s.ftK.toNat [] t := by
  have modulus := value_afterLoad (r := .n) rfl hn
  have adm : Admitted (afterLoad .n n s) .setup := by rwa [Admitted, modulus]
  have run := runEvents_load_command rfl hs hb he adm
  exact ⟨_, run, {
    sized := hs.runEvents run
    idle := rfl
    noError := he
    valid := rfl
    size := rfl
    modulus
    trialCount := rfl
    composite := by simp [effectOf, acceptedAt, afterLoad, storeWords]
    prime := by simp [effectOf, acceptedAt, afterLoad, storeWords]
    count := by simp [effectOf, acceptedAt, afterLoad, storeWords] }⟩

/-! ### The Fermat state after one more trial -/

section
variable (run : TrialsRun nw n k done s) (a : Nat)
include run

theorem TrialsRun.clean_iff : s.ftComposite = false ↔ ∀ b ∈ done, PassesTrial n b := by
  rw [← Bool.not_eq_true, run.composite]
  push Not
  rfl

theorem TrialsRun.count_le : s.ftCount.toNat ≤ done.length := by
  rw [run.count]
  exact List.length_filter_le _ _

/-- Where no witness was found every trial has been counted. -/
theorem TrialsRun.count_of_clean (clean : ∀ b ∈ done, PassesTrial n b) : s.ftCount.toNat = done.length := by
  rw [run.count, List.filter_eq_self.mpr]
  simpa using clean

theorem TrialsRun.composite_append :
    (s.ftComposite || !decide (PassesTrial n a)) = true ↔ ∃ b ∈ done ++ [a], ¬PassesTrial n b := by
  rw [Bool.or_eq_true, run.composite]
  simp [or_and_right, exists_or]

variable (few : done.length + 1 < 2 ^ 32)
include few

/-- The count is exact below 2^32. -/
theorem TrialsRun.count_append :
    (if PassesTrial n a then satSucc s.ftCount else s.ftCount).toNat =
      ((done ++ [a]).filter fun b => PassesTrial n b).length := by
  have hle := run.count_le
  rw [List.filter_append, List.length_append, ← run.count, List.filter_singleton]
  by_cases pass : PassesTrial n a
  · rw [if_pos pass, satSucc_toNat_of_lt (by omega), decide_eq_true pass]
    rfl
  · rw [if_neg pass, decide_eq_false pass]
    rfl

/-- The new count is the number of trials wherever it matters: after a pass with no witness before. -/
theorem TrialsRun.prime_append :
    (decide (PassesTrial n a) &&
      (s.ftPrime || (!s.ftComposite && decide (s.ftK.toNat ≤ (satSucc s.ftCount).toNat)))) = true ↔
    done ++ [a] ≠ [] ∧ k ≤ (done ++ [a]).length ∧ ∀ b ∈ done ++ [a], PassesTrial n b := by
  rw [List.length_append, List.length_singleton, List.forall_mem_append, List.forall_mem_singleton]
  by_cases clean : ∀ b ∈ done, PassesTrial n b
  · have count : (satSucc s.ftCount).toNat = done.length + 1 := by
      have hcount := run.count_of_clean clean
      rw [satSucc_toNat_of_lt (by omega), hcount]
    have reached : s.ftPrime = true → k ≤ done.length + 1 := fun h => Nat.le_succ_of_le (run.prime.mp h).2.1
    rw [run.clean_iff.mpr clean, count, run.trialCount]
    simp only [Bool.and_eq_true, Bool.or_eq_true, decide_eq_true_eq, Bool.not_false, true_and]
    exact ⟨fun ⟨pass, h⟩ => ⟨by simp, h.elim reached id, clean, pass⟩, fun ⟨_, h, _, pass⟩ => ⟨pass, .inr h⟩⟩
  · have composite : s.ftComposite = true := by simpa [run.composite] using clean
    have prime : s.ftPrime = false := by
      rw [← Bool.not_eq_true, run.prime]
      exact fun ⟨_, _, h⟩ => clean h
    simp [composite, prime, clean]

end

theorem TrialsRun.withEvents (run : TrialsRun nw n k done s) (es : List Event) :
    TrialsRun nw n k done (withEvents es s) :=
  { run with sized := ⟨run.sized.size, run.sized.regs⟩ }

section
variable {a : Nat}

theorem TrialsRun.value_base (run : TrialsRun nw n k done s) (lt : a < n) : value (afterLoad .a a s) .a = a :=
  value_afterLoad rfl (run.sized.lt_radix (run.modulus.symm ▸ lt))

variable (run : TrialsRun nw n k done s) (odd : n % 2 = 1) (pos : 1 ≤ a) (lt : a < n)
include run odd pos lt

/-- MODVALID = 1 and the base in range: every trial is accepted and completes. -/
theorem TrialsRun.runEvents_trial : runEvents (trialEvents nw a) s =
    .next (finishCommand (effectFermat (acceptedAt .fermat (afterLoad .a a s)))) := by
  have modulus : value (afterLoad .a a s) .n = n := run.modulus
  have adm : Admitted (afterLoad .a a s) .fermat := by
    rw [Admitted, modulus, run.value_base lt]
    exact .inr ⟨odd, run.valid, pos, lt⟩
  rw [trialEvents, ← run.size]
  exact runEvents_load_command rfl run.sized run.idle run.noError adm

/-- One more trial keeps the registers and moves the Fermat state on by its base. -/
theorem TrialsRun.step (large : 5 ≤ n) (few : done.length + 1 < 2 ^ 32) :
    ∃ t, runEvents (trialEvents nw a) s = .next t ∧ TrialsRun nw n k (done ++ [a]) t := by
  have hrun := run.runEvents_trial odd pos lt
  have hn : value (acceptedAt .fermat (afterLoad .a a s)) .n = n := run.modulus
  have ha : value (acceptedAt .fermat (afterLoad .a a s)) .a = a := (value_acceptedAt _ _ _).trans (run.value_base lt)
  have hlarge : 4 ≤ value (acceptedAt .fermat (afterLoad .a a s)) .n := by omega
  refine ⟨_, hrun, ?_⟩
  have composite := effectFermat_ftComposite hlarge
  have prime := effectFermat_ftPrime hlarge
  have count := effectFermat_ftCount hlarge
  rw [hn, ha] at composite prime count
  exact {
    sized := run.sized.runEvents hrun
    idle := rfl
    noError := (effectOf_err .fermat _).trans run.noError
    valid := (effectOf_validity (i := .fermat) (by decide) _).1.trans run.valid
    size := (effectOf_nw .fermat _).trans run.size
    modulus := (congrArg limbsValue (effectOf_n .fermat _)).trans run.modulus
    trialCount := (congrArg BitVec.toNat (effectOf_ftK .fermat _)).trans run.trialCount
    composite := by rw [finishCommand_ftComposite, composite]; exact run.composite_append a
    prime := by rw [finishCommand_ftPrime, prime]; exact run.prime_append a few
    count := by rw [finishCommand_ftCount, count]; exact run.count_append a few }

end

/-- The trials of a list of bases, one after another, are the trials of the bases done so far and of the list. -/
theorem TrialsRun.trials (run : TrialsRun nw n k done s) (odd : n % 2 = 1) (large : 5 ≤ n) {bases : List Nat}
    (range : ∀ a ∈ bases, 1 ≤ a ∧ a < n) (few : done.length + bases.length < 2 ^ 32) :
    ∃ t, runEvents (bases.flatMap (trialEvents nw)) s = .next t ∧ TrialsRun nw n k (done ++ bases) t := by
  induction bases generalizing s done with
  | nil => exact ⟨_, rfl, by simpa using run.withEvents []⟩
  | cons a bases ih =>
    obtain ⟨⟨pos, lt⟩, range⟩ := List.forall_mem_cons.mp range
    rw [List.length_cons] at few
    obtain ⟨u, hu, runU⟩ := run.step odd pos lt large (by omega)
    obtain ⟨t, ht, runT⟩ := ih runU range (by rw [List.length_append, List.length_singleton]; omega)
    rw [List.append_assoc] at runT
    exact ⟨t, (runEvents_append hu).trans ht, runT⟩

end

/-- FERMAT on a freshly loaded N ≤ 3 needs neither SETUP nor a base; its completion finds FT_COMPOSITE = 0. -/
theorem runEvents_smallModulus {s : State} {n : Nat} (hs : Sized s) (hb : s.busy = false) (he : s.err = false)
    (hn : n < 2 ^ width s) (small : n ≤ 3) :
    ∃ u, value u .n = n ∧ u.ftComposite = false ∧
      runEvents (loadEvents s.nw .n n ++ [cmdEvent .fermat, .engine]) s = .next (finishCommand (effectFermat u)) := by
  have modulus := value_afterLoad (r := .n) rfl hn
  exact ⟨acceptedAt .fermat (afterLoad .n n s), modulus, rfl,
    runEvents_load_command rfl hs hb he (.inl (modulus.trans_le small))⟩

/-- Settles O31: a small N is decided by one FERMAT, an even one is refused, and for an odd one SETUP starts a run of
trials. -/
theorem fermatRunAgreesWithTheDocument : Obligations.FermatRunAgreesWithTheDocument := by
  intro s n inv hb he hn
  refine ⟨fun small => ?composite, fun small => ?prime, fun large odd bases range few => ?trials,
    fun large even => ?refused⟩
  case composite =>
    obtain ⟨u, hu, _, run⟩ := runEvents_smallModulus inv.sized hb he hn (by omega)
    rw [effectFermat_of_le_one (hu.trans_le small)] at run
    exact ⟨_, run, rfl, rfl⟩
  case prime =>
    obtain ⟨u, hu, clean, run⟩ := runEvents_smallModulus inv.sized hb he hn (by omega)
    rw [effectFermat_of_two_or_three (small.imp hu.trans hu.trans)] at run
    exact ⟨_, run, rfl, clean⟩
  case trials =>
    obtain ⟨t₀, hsetup, start⟩ := TrialsRun.ofSetup inv.sized hb he hn odd
    obtain ⟨t, htrials, run⟩ := start.trials odd large range (by rwa [List.length_nil, Nat.zero_add])
    exact ⟨t, (runEvents_append hsetup).trans htrials, run.composite, run.prime, run.count⟩
  case refused =>
    have modulus := value_afterLoad (r := .n) rfl hn
    have cause : checkOf .fermat (afterLoad .n n s) = some .modEven :=
      checkFermat_even (large.trans_eq modulus.symm) (by rwa [modulus])
    exact ⟨_, (runEvents_append (runEvents_loadEvents rfl inv.sized hb n)).trans (runEvents_refused hb he cause),
      rfl, rfl, rfl, rfl⟩

end Sys2Proof.Machine
end

section
/-! The interrupt output through the life of a command (60_exceptions.md R270). -/

namespace Sys2Proof.Machine

@[simp] theorem effectOf_ieDone (i : Instr) (s : State) : (effectOf i s).ieDone = s.ieDone := by rw [effectOf_frame]
@[simp] theorem effectOf_ieErr (i : Instr) (s : State) : (effectOf i s).ieErr = s.ieErr := by rw [effectOf_frame]

/-- A completion sets DONE; it leaves the two enables and a pending error as they are. -/
theorem irq_completion (i : Instr) (s : State) :
    irq (finishCommand (effectOf i s)) = (s.ieDone || (s.err && s.ieErr)) := by
  simp [irq]

theorem irq_acceptCommand {s : State} (he : s.err = false) (op : Byte) : irq (acceptCommand op s) = false := by
  simp [irq, he]

/-- A refusal does not touch DONE, so a completion not yet acknowledged still shows. -/
theorem irq_raiseError (c : ErrCode) (op : Byte) (s : State) :
    irq (raiseError c op s) = ((s.done && s.ieDone) || s.ieErr) := by
  simp [irq]

/-- A command written to a free CMD is refused by its check or accepted (40_common.md R130). -/
theorem exec_refused_or_accepted {s : State} (ready : HostReady s) (i : Instr) :
    (∃ c, exec i s = .next (raiseError c (opcode i) s)) ∨ exec i s = .next (acceptCommand (opcode i) s) := by
  cases verdict : checkOf i s with
  | some c => exact .inl ⟨c, exec_refused ready verdict⟩
  | none => exact .inr (exec_accepted ready ((checkOf_eq_none_iff i s).mp verdict))

/-- Settles O48: the definition of `irq`, then its value after a completion, a refusal, an acceptance and the
acknowledge of both flags. -/
theorem interruptOutputFollowsTheFlags : Obligations.InterruptOutputFollowsTheFlags := by
  refine ⟨fun s => by simp [irq], fun i s t flight h => ?completion, fun i s t ready h => ?cmdWrite,
    fun s v rest inp hdone herr => ⟨_, step_write_status inp, by simp [irq, hdone, herr]⟩⟩
  case completion =>
    cases (exec_inFlight flight).symm.trans h
    exact irq_completion i s
  case cmdWrite =>
    obtain ⟨c, refused⟩ | accepted := exec_refused_or_accepted ready i
    · cases refused.symm.trans h
      simp [irq_raiseError]
    · cases accepted.symm.trans h
      obtain ⟨_, _, he⟩ := ready
      simp [irq_acceptCommand he, he]

end Sys2Proof.Machine
end

section
/-! Reset abandons the command in flight, and nothing else ends it without DONE (70_reset_and_hazards.md R300, R302). -/

namespace Sys2Proof.Machine

/-- Reset keeps the instance's size and the events still to come, and nothing else (R300). -/
theorem step_reset_eq {s : State} {rest : List Event} (inp : s.inputs = .reset :: rest) :
    step s = .next { resetOf s.nw with inputs := rest } :=
  step_reset inp

/-- Where BUSY falls without a reset the engine had its turn, so the command completed and set DONE (R302). -/
theorem done_of_busy_falls {s t : State} (h : step s = .next t) (busy : s.busy = true)
    (noReset : s.inputs.head? ≠ some .reset) (free : t.busy = false) : t.done = true := by
  have cause := (busyChangesOnlyAsStated s t h).2 busy free
  have engineNext : EngineNext s := cause.imp_right (Or.resolve_right · noReset)
  exact (doneChangesOnlyAsStated s t h).1 engineNext busy

/-- Settles O50: the reset step's next state is `step_reset_eq`'s; in any other step a fall of BUSY brings DONE. -/
theorem resetAbandonsTheCommand : Obligations.ResetAbandonsTheCommand := by
  refine ⟨fun s rest inp => ⟨step_reset_eq inp, fun t h => ?_⟩, fun s t busy noReset h => ?_⟩
  · cases (step_reset_eq inp).symm.trans h
    exact ⟨rfl, rfl, fun r => (value_beginStep .engine rest _ r).trans (value_resetOf s.nw r)⟩
  · cases free : t.busy with
    | true => exact .inl rfl
    | false => exact .inr (done_of_busy_falls h busy noReset free)

end Sys2Proof.Machine
end

section
/-! The invariant at reset and after a step, and the engine's turn as `exec` of the command in flight. -/

namespace Sys2Proof.Machine

/-- No clause of the invariant looks at the events to come. -/
theorem BlockInv.withEvents {s : State} (h : BlockInv s) (es : List Event) : BlockInv (withEvents es s) :=
  { h with sized := ⟨h.sized.size, h.sized.regs⟩ }

/-- Settles O52: each kind of step keeps every clause, by the case split of `BlockInv.step`. -/
theorem everyStepKeepsTheInvariant : Obligations.EveryStepKeepsTheInvariant :=
  fun _ _ => BlockInv.step

/-- Settles O51: the reset state of a size in range meets the invariant whatever happens next, and 64 is in range. -/
theorem resetStateMeetsTheInvariant : Obligations.ResetStateMeetsTheInvariant := by
  refine ⟨fun nw es hnw => ?_, BlockInv.resetOf (by decide)⟩
  have hsize : 1 ≤ nw ∧ nw ≤ Config.maxNW := by simpa [sizeWellFormed] using hnw
  exact (BlockInv.resetOf hsize).withEvents es

/-- Settles O4: the command in flight is the one CUR_OP decodes to; an idle block has no step. -/
theorem engineTurnRunsTheCommandInFlight : Obligations.EngineTurnRunsTheCommandInFlight := by
  refine fun s next => ⟨fun i busy op => ?_, step_engine_idle next⟩
  exact step_engine_busy next busy (by rw [op, instrOfOpcode_opcode])

end Sys2Proof.Machine
end

section
/-! What a CMD write leaves as it was, whatever its outcome (40_common.md R131 to R133, 60_exceptions.md R262). -/

namespace Sys2Proof.Machine

/-- The state `s` with the fields a CMD write can change taken from `u`: BUSY, DONE, CUR_OP, WIGN, ERR and ERRINFO. -/
def withCommandStatus (u s : State) : State :=
  { s with
    busy := u.busy, done := u.done, curOp := u.curOp, wign := u.wign
    err := u.err, errCode := u.errCode, errOp := u.errOp }

/-- A CMD write, dropped, refused or accepted, changes those fields at most. -/
theorem writeCommand_frame (op : Byte) (verdict : Option ErrCode) (s : State) :
    writeCommand op verdict s = withCommandStatus (writeCommand op verdict s) s := by
  rcases writeCommand_cases op verdict s with ⟨_, dropped⟩ | ⟨_, c, _, refused⟩ | ⟨_, _, accepted⟩
  · rw [dropped]; rfl
  · rw [refused]; rfl
  · rw [accepted]; rfl

theorem exec_host_frame {i : Instr} {s t : State} (host : s.turn = .host) (h : exec i s = .next t) :
    ∃ u, t = withCommandStatus u s := by
  rw [exec_eq_runCommand, runCommand_host host] at h
  cases h
  exact ⟨_, writeCommand_frame _ _ s⟩

/-- Those fields are read in STATUS and ERRINFO only (20_memory.md R74). -/
theorem readLoc_withCommandStatus (u s : State) {l : Loc} (notStatus : l ≠ .status) (notErrinfo : l ≠ .errinfo) :
    readLoc (withCommandStatus u s) l = readLoc s l := by
  cases l with
  | status => exact absurd rfl notStatus
  | errinfo => exact absurd rfl notErrinfo
  | big r k => cases r <;> rfl
  | id | cfg | ctrl | cmd | ftK | ftCount | reserved => rfl

/-- Settles O17: the next state is the old one but for the fields of `withCommandStatus`. -/
theorem commandWriteFrame : Obligations.CommandWriteFrame := by
  intro i s t host h
  obtain ⟨u, rfl⟩ := exec_host_frame host h
  exact ⟨fun _ => readLoc_withCommandStatus u s,
    rfl, rfl, rfl, rfl, rfl, rfl, rfl, rfl, rfl, rfl, rfl, rfl, rfl, rfl, rfl, rfl⟩

end Sys2Proof.Machine
end

section
/-! What the engine's turn leaves as it was (40_common.md R134 and each command's rule). -/

namespace Sys2Proof.Machine

theorem exec_engine_cases {i : Instr} {s t : State} (engine : s.turn = .engine) (h : exec i s = .next t) :
    t = finishCommand (effectOf i s) ∨ t = s := by
  rw [exec_eq_runCommand, runCommand_engine engine] at h
  cases h
  exact (completeCommand_cases (opcode i) (effectOf i) s).imp (·.2.2) And.right

@[simp] theorem effectOf_curOp (i : Instr) (s : State) : (effectOf i s).curOp = s.curOp := by rw [effectOf_frame]
@[simp] theorem effectOf_inputs (i : Instr) (s : State) : (effectOf i s).inputs = s.inputs := by rw [effectOf_frame]

/-- The five commands that have a result are the only ones to write RES (10_state.md R26). -/
theorem effectOf_res {i : Instr} (noResult : i ≠ .montmul ∧ i ≠ .tomont ∧ i ≠ .frommont ∧ i ≠ .modexp ∧ i ≠ .fermat)
    (s : State) : (effectOf i s).res = s.res := by
  cases i with
  | nop | setup | ftinit => rfl
  | montmul | tomont | frommont | modexp | fermat => simp at noResult

/-- FERMAT computes no residue for N ≤ 3 and counts no trial (43_fermat.md R205). -/
theorem effectFermat_keeps_result {s : State} (small : value s .n ≤ 3) :
    (effectFermat s).res = s.res ∧ (effectFermat s).ftCount = s.ftCount := by
  rcases effectFermat_cases s with ⟨_, e⟩ | ⟨_, e⟩ | ⟨large, _⟩
  · rw [e]; exact ⟨rfl, rfl⟩
  · rw [e]; exact ⟨rfl, rfl⟩
  · omega

/-- A completion changes what STATUS shows, RR for SETUP, RES for a command with a result, and FT_COUNT for FERMAT and
FTINIT (20_memory.md R74). -/
theorem readLoc_completion {i : Instr} (s : State) {l : Loc} (notStatus : l ≠ .status)
    (rr : (∃ k, l = .big .rr k) → i ≠ .setup)
    (res : (∃ k, l = .big .res k) → i ≠ .montmul ∧ i ≠ .tomont ∧ i ≠ .frommont ∧ i ≠ .modexp ∧ i ≠ .fermat)
    (count : l = .ftCount → i ≠ .fermat ∧ i ≠ .ftinit) :
    readLoc (finishCommand (effectOf i s)) l = readLoc s l := by
  cases l with
  | status => exact absurd rfl notStatus
  | big r k =>
    have hreg : bigReg (effectOf i s) r = bigReg s r := by
      cases r with
      | rr => exact (effectOf_validity (rr ⟨k, rfl⟩) s).2
      | res => exact effectOf_res (res ⟨k, rfl⟩) s
      | n | a | b | e => simp
    rw [readLoc, readLoc, bigReg_finishCommand, hreg]
  | ftCount =>
    obtain ⟨notFermat, notFtinit⟩ := count rfl
    exact (effectOf_fermatState notFermat notFtinit s).2.2.2
  | id | cfg | ctrl | cmd | errinfo | ftK | reserved => rw [effectOf_frame]; rfl

/-- Settles O16: an enabled completion is `effectOf` with BUSY and DONE, which writes what the command's rule names; where
it is not enabled nothing changes. -/
theorem completionFrame : Obligations.CompletionFrame := by
  intro i s t engine h
  obtain rfl | rfl := exec_engine_cases engine h
  · refine ⟨fun w notStatus rr res count => ?reads, by simp, by simp, by simp, by simp, by simp, by simp, by simp,
      by simp, by simp, by simp, by simp, by simp, by simp, by simp, fun notSetup => ?validity,
      fun h1 h2 h3 h4 h5 => effectOf_res ⟨h1, h2, h3, h4, h5⟩ s, ?small, fun h1 h2 => effectOf_fermatState h1 h2 s⟩
    case reads =>
      rw [readWord, readWord, finishCommand_nw, effectOf_nw]
      exact readLoc_completion s notStatus rr res count
    case validity => exact (effectOf_validity notSetup s).symm
    case small =>
      rintro rfl small
      exact effectFermat_keeps_result small
  · simp

end Sys2Proof.Machine
end
